-- ==== Sys2Proof/Word.lean ====
section
/-! DEFINITION. The word types of the block: what the spec treats as bits (spec/00_scope.md R5, R6). -/
namespace Sys2Proof

/-- An 8-bit value: a general register, a timer, a byte of memory (spec/10_state.md R12, R22, R25). -/
abbrev Byte := BitVec 8

/-- A 16-bit value: an instruction word, `I`, `pc`, a stack slot (spec/10_state.md R16, R17, R20). -/
abbrev Word := BitVec 16

/-- A 12-bit address field `nnn` of an instruction (spec/30_encoding.md R59). -/
abbrev Addr := BitVec 12

/-- A 4-bit immediate `n` of an instruction (spec/30_encoding.md R59). -/
abbrev Nibble := BitVec 4

/-- The index of a general register, always in 0..15 (spec/10_state.md R14). -/
abbrev Reg := Fin 16

end Sys2Proof
end

