-- ==== Sys2Proof/Config.lean ====
section
/-! DEFINITION. The parameters of spec/00_scope.md R4: the values the spec fixes, the two a machine is made with
(`Params`), and the two it leaves OPEN, which are free values (no body, so nothing can be proved of what they are). -/
namespace Sys2Proof

/-- Which cells of a sprite's box can report a collision (spec/42_display.md R102). -/
inductive CollisionScope where
  /-- Only the cells under a 1 bit of the sprite. -/
  | setBits
  /-- Every cell of the 8 x n box, those under 0 bits included. -/
  | wholeBox
deriving DecidableEq, Repr

/-- The parameters of spec/00_scope.md R4 that change what the block does: a machine is made with one value of each, and
every value is modelled. -/
structure Params where
  /-- STRICT_59: whether 5xyn and 9xyn with n other than 0 are decode failures (spec/30_encoding.md R64; log 5). -/
  strict59 : Bool
  /-- COLLISION_SCOPE (spec/42_display.md R102; log 6). -/
  collisionScope : CollisionScope
deriving DecidableEq, Repr

/-- HL_DECAY, what a highlight counter is set to on a write (spec/00_scope.md R4, spec/10_state.md R30). -/
abbrev Config.hlDecay : Nat := 60

/-- IMAGE_BASE, where an image is copied to and the pc after reset (spec/00_scope.md R4). -/
abbrev Config.imageBase : Nat := 0x200

/-- IMAGE_MAX, the longest image a reset accepts (spec/00_scope.md R4, spec/70_reset_and_hazards.md R141). -/
abbrev Config.imageMax : Nat := 3584

/-- The length of FONT: 16 glyphs of 5 bytes, at addresses 0x000..0x04F (spec/00_scope.md R4). -/
abbrev Config.fontBytes : Nat := 80

/-- FONT, the OPEN parameter of 80 font bytes: byte `i` for `i` in 0..79 (spec/00_scope.md R4,
spec/70_reset_and_hazards.md R140). A FREE VALUE (log 4), safe: a statement holds for every font. -/
opaque Config.font : Nat → Byte

/-- RANDOM: the byte the k-th CXNN since the machine was made draws, any value 0..255 and under no law
(spec/41_alu.md R98). A FREE VALUE (log 3), safe: a statement holds for every sequence of draws. -/
opaque Config.draw8 : Nat → Byte

end Sys2Proof
end

