-- ==== Sys2Proof/Machine/Params.lean ====
section
/-! DEFINITION. The values of the parameters a machine has unless it is made with others. -/
namespace Sys2Proof

/-- The spec's defaults: STRICT_59 false and COLLISION_SCOPE WHOLE_BOX (spec/00_scope.md R4, spec/30_encoding.md R64,
spec/42_display.md R102). DESIGN CHOICE (logs 5 and 6), unsafe for a claim about `State.reset` alone: a machine made with
the other values faults on more words and reports fewer collisions. -/
def Params.defaults : Params where
  strict59 := false
  collisionScope := .wholeBox

end Sys2Proof
end

