-- ==== Sys2Proof/Syntax.lean ====
section
/-! DEFINITION. The instructions of spec/opcode_table.json, one constructor per row (spec/30_encoding.md R71).
A constructor keeps EVERY bit of its word that the row leaves free, the ignored ones too (log 11). -/
namespace Sys2Proof

/-- The 34 admitted instructions (spec/30_encoding.md R71). `x`, `y` are register indices, `nn` an 8-bit immediate,
`nnn` a 12-bit address, `n` a 4-bit immediate (R59). -/
inductive Instr where
  /-- 00E0, clear the display (spec/42_display.md R104). -/
  | cls
  /-- 00EE, return from subroutine (spec/40_control.md R77). -/
  | ret
  /-- 1nnn, jump (spec/40_control.md R78). -/
  | jp (nnn : Addr)
  /-- 2nnn, call subroutine (spec/40_control.md R80). -/
  | call (nnn : Addr)
  /-- 3xnn, skip if Vx = nn (spec/40_control.md R81). -/
  | seImm (x : Reg) (nn : Byte)
  /-- 4xnn, skip if Vx ≠ nn (spec/40_control.md R82). -/
  | sneImm (x : Reg) (nn : Byte)
  /-- 5xyn, skip if Vx = Vy; `n` has no effect (spec/40_control.md R83, spec/30_encoding.md R64). -/
  | seReg (x y : Reg) (n : Nibble)
  /-- 6xnn, Vx := nn (spec/41_alu.md R87). -/
  | ldImm (x : Reg) (nn : Byte)
  /-- 7xnn, Vx := Vx + nn, no flag (spec/41_alu.md R89). -/
  | addImm (x : Reg) (nn : Byte)
  /-- 8xy0, Vx := Vy (spec/41_alu.md R88). -/
  | ldReg (x y : Reg)
  /-- 8xy1, bitwise OR (spec/41_alu.md R90). -/
  | orReg (x y : Reg)
  /-- 8xy2, bitwise AND (spec/41_alu.md R151). -/
  | andReg (x y : Reg)
  /-- 8xy3, bitwise XOR (spec/41_alu.md R152). -/
  | xorReg (x y : Reg)
  /-- 8xy4, Vx := Vx + Vy with the carry in VF (spec/41_alu.md R92). -/
  | addReg (x y : Reg)
  /-- 8xy5, Vx := Vx - Vy with no-borrow in VF (spec/41_alu.md R93). -/
  | sub (x y : Reg)
  /-- 8xy6, Vx shifted right by one; `y` has no effect (spec/41_alu.md R95). -/
  | shr (x y : Reg)
  /-- 8xy7, Vx := Vy - Vx with no-borrow in VF (spec/41_alu.md R94). -/
  | subn (x y : Reg)
  /-- 8xyE, Vx shifted left by one; `y` has no effect (spec/41_alu.md R96). -/
  | shl (x y : Reg)
  /-- 9xyn, skip if Vx ≠ Vy; `n` has no effect (spec/40_control.md R84, spec/30_encoding.md R64). -/
  | sneReg (x y : Reg) (n : Nibble)
  /-- Annn, I := nnn (spec/44_address_memory.md R119). -/
  | ldI (nnn : Addr)
  /-- Bnnn, jump to nnn + V0 (spec/40_control.md R79). -/
  | jpV0 (nnn : Addr)
  /-- Cxnn, Vx := nn AND a random byte (spec/41_alu.md R97). -/
  | rnd (x : Reg) (nn : Byte)
  /-- Dxyn, draw an n-row sprite from I at (Vx, Vy) (spec/42_display.md R105). -/
  | drw (x y : Reg) (n : Nibble)
  /-- Ex9E, skip if the key numbered Vx is down (spec/43_input_timers.md R110). -/
  | skp (x : Reg)
  /-- ExA1, skip if the key numbered Vx is up (spec/43_input_timers.md R111). -/
  | sknp (x : Reg)
  /-- Fx07, Vx := DT (spec/43_input_timers.md R113). -/
  | ldVxDT (x : Reg)
  /-- Fx0A, wait for a key (spec/43_input_timers.md R112). -/
  | ldVxK (x : Reg)
  /-- Fx15, DT := Vx (spec/43_input_timers.md R114). -/
  | ldDTVx (x : Reg)
  /-- Fx18, ST := Vx (spec/43_input_timers.md R115). -/
  | ldSTVx (x : Reg)
  /-- Fx1E, I := I + Vx (spec/44_address_memory.md R120). -/
  | addI (x : Reg)
  /-- Fx29, I := 5 * Vx (spec/44_address_memory.md R121). -/
  | ldF (x : Reg)
  /-- Fx33, the decimal digits of Vx to memory at I (spec/44_address_memory.md R122). -/
  | ldB (x : Reg)
  /-- Fx55, V0..Vx to memory at I (spec/44_address_memory.md R123). -/
  | ldMemRegs (x : Reg)
  /-- Fx65, V0..Vx from memory at I (spec/44_address_memory.md R124). -/
  | ldRegsMem (x : Reg)
deriving DecidableEq, Repr

end Sys2Proof
end

