-- ==== Sys2Proof/WellFormed.lean ====
section
/-! DEFINITION. Which instruction terms the block admits. Register indices and immediates are in range by their types
(spec/10_state.md R14); the one check left is STRICT_59 (spec/30_encoding.md R64). -/
namespace Sys2Proof

/-- The nibble `n` of 5xyn and 9xyn that STRICT_59 admits: any value when it is false, only 0 when it is true
(spec/30_encoding.md R64). -/
def nibble59Ok (strict : Bool) (n : Nibble) : Bool :=
  !strict || n == 0

/-- The admitted instruction terms, for a value of STRICT_59. -/
def wellFormedWith (strict : Bool) : Instr → Bool
  | .seReg _ _ n => nibble59Ok strict n
  | .sneReg _ _ n => nibble59Ok strict n
  | .cls | .ret | .jp _ | .call _ | .seImm _ _ | .sneImm _ _ | .ldImm _ _ | .addImm _ _ | .ldReg _ _ | .orReg _ _
  | .andReg _ _ | .xorReg _ _ | .addReg _ _ | .sub _ _ | .shr _ _ | .subn _ _ | .shl _ _ | .ldI _ | .jpV0 _
  | .rnd _ _ | .drw _ _ _ | .skp _ | .sknp _ | .ldVxDT _ | .ldVxK _ | .ldDTVx _ | .ldSTVx _ | .addI _ | .ldF _
  | .ldB _ | .ldMemRegs _ | .ldRegsMem _ => true

/-- The admitted instruction terms at the spec's default of STRICT_59. -/
def WellFormed (i : Instr) : Bool :=
  wellFormedWith Params.defaults.strict59 i

end Sys2Proof
end

