-- ==== Sys2Proof/Decode.lean ====
section
/-! DEFINITION. The decoder of spec/30_encoding.md (R57-R70), total on words and on byte lists, rejecting by name, and
after it the encoder, written from the same encodings. -/
namespace Sys2Proof

/-- Why a word is Invalid: the dispatch of spec/30_encoding.md R61 that found no instruction. Every one of them is the
fatal condition DECODE_FAILURE (R69). -/
inductive Reject where
  /-- Family 0x0, and neither 00E0 nor 00EE (R62). -/
  | family0
  /-- Family 0x5 with a non-zero low nibble under STRICT_59 (R64). -/
  | strict5
  /-- Family 0x8 with a low nibble that names no operation (R65). -/
  | family8
  /-- Family 0x9 with a non-zero low nibble under STRICT_59 (R64). -/
  | strict9
  /-- Family 0xE with a low byte other than 9E, A1 (R66). -/
  | familyE
  /-- Family 0xF with a low byte that is none of the nine of R67. -/
  | familyF
  /-- Fewer than the two bytes every instruction has (R57); fetch never meets it. -/
  | tooShort
deriving DecidableEq, Repr

/-- What decoding a word gives: an instruction or Invalid (spec/30_encoding.md R70). -/
inductive Decoded where
  | inst (i : Instr)
  | invalid (why : Reject)
deriving DecidableEq, Repr

/-- `op[15:12]`, the family (spec/30_encoding.md R61). -/
def fieldFamily (op : Word) : Nat := (op.extractLsb' 12 4).toNat

/-- `x = op[11:8]` (spec/30_encoding.md R59). -/
def fieldX (op : Word) : Reg := (op.extractLsb' 8 4).toFin

/-- `y = op[7:4]` (spec/30_encoding.md R59). -/
def fieldY (op : Word) : Reg := (op.extractLsb' 4 4).toFin

/-- `n = op[3:0]` (spec/30_encoding.md R59). -/
def fieldN (op : Word) : Nibble := op.extractLsb' 0 4

/-- `nn = op[7:0]` (spec/30_encoding.md R59). -/
def fieldNN (op : Word) : Byte := op.extractLsb' 0 8

/-- `nnn = op[11:0]` (spec/30_encoding.md R59). -/
def fieldNNN (op : Word) : Addr := op.extractLsb' 0 12

/-- Family 0x0: only the words 00E0 and 00EE (spec/30_encoding.md R62). -/
def decodeFamily0 (op : Word) : Decoded :=
  if op.toNat = 0x00E0 then .inst .cls
  else if op.toNat = 0x00EE then .inst .ret
  else .invalid .family0

/-- Family 0x8, on the low nibble (spec/30_encoding.md R65). -/
def decodeFamily8 (op : Word) : Decoded :=
  match (fieldN op).toNat with
  | 0x0 => .inst (.ldReg (fieldX op) (fieldY op))
  | 0x1 => .inst (.orReg (fieldX op) (fieldY op))
  | 0x2 => .inst (.andReg (fieldX op) (fieldY op))
  | 0x3 => .inst (.xorReg (fieldX op) (fieldY op))
  | 0x4 => .inst (.addReg (fieldX op) (fieldY op))
  | 0x5 => .inst (.sub (fieldX op) (fieldY op))
  | 0x6 => .inst (.shr (fieldX op) (fieldY op))
  | 0x7 => .inst (.subn (fieldX op) (fieldY op))
  | 0xE => .inst (.shl (fieldX op) (fieldY op))
  | _ => .invalid .family8

/-- Family 0xE, on the low byte (spec/30_encoding.md R66). -/
def decodeFamilyE (op : Word) : Decoded :=
  match (fieldNN op).toNat with
  | 0x9E => .inst (.skp (fieldX op))
  | 0xA1 => .inst (.sknp (fieldX op))
  | _ => .invalid .familyE

/-- Family 0xF, on the low byte (spec/30_encoding.md R67). -/
def decodeFamilyF (op : Word) : Decoded :=
  match (fieldNN op).toNat with
  | 0x07 => .inst (.ldVxDT (fieldX op))
  | 0x0A => .inst (.ldVxK (fieldX op))
  | 0x15 => .inst (.ldDTVx (fieldX op))
  | 0x18 => .inst (.ldSTVx (fieldX op))
  | 0x1E => .inst (.addI (fieldX op))
  | 0x29 => .inst (.ldF (fieldX op))
  | 0x33 => .inst (.ldB (fieldX op))
  | 0x55 => .inst (.ldMemRegs (fieldX op))
  | 0x65 => .inst (.ldRegsMem (fieldX op))
  | _ => .invalid .familyF

/-- `Decode(op)` for a value of STRICT_59 (spec/30_encoding.md R70). The family is below 16, so the last case is
family 0xF. -/
def decodeWith (strict : Bool) (op : Word) : Decoded :=
  match fieldFamily op with
  | 0x0 => decodeFamily0 op
  | 0x1 => .inst (.jp (fieldNNN op))
  | 0x2 => .inst (.call (fieldNNN op))
  | 0x3 => .inst (.seImm (fieldX op) (fieldNN op))
  | 0x4 => .inst (.sneImm (fieldX op) (fieldNN op))
  | 0x5 => if nibble59Ok strict (fieldN op) then .inst (.seReg (fieldX op) (fieldY op) (fieldN op)) else .invalid .strict5
  | 0x6 => .inst (.ldImm (fieldX op) (fieldNN op))
  | 0x7 => .inst (.addImm (fieldX op) (fieldNN op))
  | 0x8 => decodeFamily8 op
  | 0x9 => if nibble59Ok strict (fieldN op) then .inst (.sneReg (fieldX op) (fieldY op) (fieldN op)) else .invalid .strict9
  | 0xA => .inst (.ldI (fieldNNN op))
  | 0xB => .inst (.jpV0 (fieldNNN op))
  | 0xC => .inst (.rnd (fieldX op) (fieldNN op))
  | 0xD => .inst (.drw (fieldX op) (fieldY op) (fieldN op))
  | 0xE => decodeFamilyE op
  | _ => decodeFamilyF op

/-- `Decode(op)` at the spec's default of STRICT_59 (spec/30_encoding.md R64, R70). The step decodes with the value its
machine was made with (`State.decoded`). -/
def decode (op : Word) : Decoded :=
  decodeWith Params.defaults.strict59 op

/-- The word of two bytes, the first the high byte (spec/20_memory.md R42, R46). -/
def wordOfBytes (hi lo : Byte) : Word :=
  BitVec.ofNat 16 (hi.toNat * 256 + lo.toNat)

/-- The high byte of a word, the one that lies at the lower address (spec/20_memory.md R42). -/
def highByte (w : Word) : Byte := BitVec.ofNat 8 (w.toNat / 256)

/-- The low byte of a word (spec/20_memory.md R42). -/
def lowByte (w : Word) : Byte := BitVec.ofNat 8 w.toNat

/-- Decoding from a list of bytes, at the default of STRICT_59: every instruction takes two (spec/30_encoding.md R57). -/
def decodeBytes : List Byte → Decoded
  | hi :: lo :: _ => decode (wordOfBytes hi lo)
  | _ => .invalid .tooShort

/-- The bytes, in the order memory holds them, of the instruction whose bits are `w`, bit 0 the least significant bit
of its one word; the bits above `nbits` are 0. -/
def tableBytes (nbits w : Nat) : List Byte :=
  let word : Word := BitVec.ofNat 16 (w % 2 ^ nbits)
  [highByte word, lowByte word]

/-- What the decoder reads from a row of the opcode table with bits `w`. -/
def decodeTableWord (nbits w : Nat) : Option Instr :=
  match decodeBytes (tableBytes nbits w) with
  | .inst i => some i
  | .invalid _ => none

/-- The word written with the hex digits `a b c d`. -/
def wordOfDigits (a b c d : Nat) : Word :=
  BitVec.ofNat 16 (a * 4096 + b * 256 + c * 16 + d)

/-- The word `a nnn` of format F_NNN (spec/30_encoding.md R58). -/
def wordNNN (a : Nat) (nnn : Addr) : Word := BitVec.ofNat 16 (a * 4096 + nnn.toNat)

/-- The word `a x nn` of formats F_XNN and F_X (spec/30_encoding.md R58). -/
def wordXNN (a : Nat) (x : Reg) (nn : Byte) : Word := BitVec.ofNat 16 (a * 4096 + x.val * 256 + nn.toNat)

/-- The word `a x y n` of format F_XYN (spec/30_encoding.md R58). -/
def wordXYN (a : Nat) (x y : Reg) (n : Nibble) : Word := wordOfDigits a x.val y.val n.toNat

/-- The word of an instruction (spec/30_encoding.md R58, R62-R67, R72). -/
def encode : Instr → Word
  | .cls => wordOfDigits 0x0 0x0 0xE 0x0
  | .ret => wordOfDigits 0x0 0x0 0xE 0xE
  | .jp nnn => wordNNN 0x1 nnn
  | .call nnn => wordNNN 0x2 nnn
  | .seImm x nn => wordXNN 0x3 x nn
  | .sneImm x nn => wordXNN 0x4 x nn
  | .seReg x y n => wordXYN 0x5 x y n
  | .ldImm x nn => wordXNN 0x6 x nn
  | .addImm x nn => wordXNN 0x7 x nn
  | .ldReg x y => wordXYN 0x8 x y 0x0
  | .orReg x y => wordXYN 0x8 x y 0x1
  | .andReg x y => wordXYN 0x8 x y 0x2
  | .xorReg x y => wordXYN 0x8 x y 0x3
  | .addReg x y => wordXYN 0x8 x y 0x4
  | .sub x y => wordXYN 0x8 x y 0x5
  | .shr x y => wordXYN 0x8 x y 0x6
  | .subn x y => wordXYN 0x8 x y 0x7
  | .shl x y => wordXYN 0x8 x y 0xE
  | .sneReg x y n => wordXYN 0x9 x y n
  | .ldI nnn => wordNNN 0xA nnn
  | .jpV0 nnn => wordNNN 0xB nnn
  | .rnd x nn => wordXNN 0xC x nn
  | .drw x y n => wordXYN 0xD x y n
  | .skp x => wordXNN 0xE x 0x9E
  | .sknp x => wordXNN 0xE x 0xA1
  | .ldVxDT x => wordXNN 0xF x 0x07
  | .ldVxK x => wordXNN 0xF x 0x0A
  | .ldDTVx x => wordXNN 0xF x 0x15
  | .ldSTVx x => wordXNN 0xF x 0x18
  | .addI x => wordXNN 0xF x 0x1E
  | .ldF x => wordXNN 0xF x 0x29
  | .ldB x => wordXNN 0xF x 0x33
  | .ldMemRegs x => wordXNN 0xF x 0x55
  | .ldRegsMem x => wordXNN 0xF x 0x65

end Sys2Proof
end

