-- ==== Sys2Proof/Machine/State.lean ====
section
/-! DEFINITION. The Machine aggregate of spec/10_state.md R11 as plain data, the reasons a step can stop, and the state
right after reset. -/
namespace Sys2Proof.Machine

/-- The four fatal conditions with the info each records (spec/60_exceptions.md R126). -/
inductive Fatal where
  /-- Code 1: the word `op` at `pc` decodes to no instruction (spec/30_encoding.md R69). -/
  | decodeFailure (pc op : Word)
  /-- Code 2: CALL with SP = 16 (spec/40_control.md R74, R80). -/
  | stackOverflow (pc : Word)
  /-- Code 3: RET with SP = 0 (spec/40_control.md R75, R77). -/
  | stackUnderflow (pc : Word)
  /-- Code 4: SKP or SKNP with `vx` above 15 (spec/43_input_timers.md R109). -/
  | keyIndexRange (pc : Word) (vx : Byte)
deriving DecidableEq, Repr

/-- The status of the block (spec/10_state.md R26). -/
inductive Status where
  | running
  | fatal (c : Fatal)
deriving DecidableEq, Repr

/-- Why a step stops. -/
inductive Fault where
  /-- The outcome `Fatal(code, info)` of a step (spec/00_scope.md R8, spec/60_exceptions.md R127). Raised by a fetch of
  an invalid word, CALL, RET, SKP and SKNP through `raiseFatal`. The machine's state is then the state before the step
  with only its status changed (`State.enterFatal`). Safe: it is the spec's own outcome. -/
  | raised (c : Fatal)
  /-- A step asked for while the status is Fatal: no step is taken (spec/10_state.md R26, spec/60_exceptions.md R128).
  Raised by `step`. Safe: nothing happens. -/
  | alreadyFatal (c : Fatal)
deriving DecidableEq, Repr

/-- Why the model gives an instruction no meaning. -/
inductive Refusal where
  /-- An instruction of the table without a meaning. Raised by no arm of `exec`: every row has its meaning. Safe. -/
  | notModelled (mnemonic : String)
deriving DecidableEq, Repr

/-- Memory: the cells whose byte differs from what an unlisted address reads as, addresses strictly rising
(spec/10_state.md R25; log 4). -/
abbrev Memory := List Host.Cell

/-- The framebuffer, `FB[x][y]` with column x in 0..63 and row y in 0..31, `true` for set (spec/10_state.md R23). -/
abbrev Framebuffer := Vector (Vector Bool 32) 64

/-- The Machine aggregate (spec/10_state.md R11), with two fields of the model's own, `draws` and `params`. -/
structure State where
  /-- The 4096 bytes of memory (spec/10_state.md R25). -/
  memory : Memory
  /-- `V[0..15]`, VF being `v[15]` (spec/10_state.md R12, R13). -/
  v : Vector Byte 16
  /-- The address register `I` (spec/10_state.md R16). -/
  ireg : Word
  /-- The address of the instruction about to be fetched (spec/10_state.md R17). -/
  pc : Word
  /-- The call stack's 16 slots (spec/10_state.md R20). -/
  stk : Vector Word 16
  /-- The stack pointer, 0 for empty and 16 for full (spec/10_state.md R21). -/
  sp : Fin 17
  /-- The delay timer (spec/10_state.md R22). -/
  dt : Byte
  /-- The sound timer (spec/10_state.md R22). -/
  st : Byte
  /-- The framebuffer (spec/10_state.md R23). -/
  fb : Framebuffer
  /-- The key latch, `true` for down (spec/10_state.md R24). -/
  key : Vector Bool 16
  /-- The highlight counters of the registers (spec/10_state.md R29, R30). -/
  hlr : Vector Nat 16
  /-- The highlight counters of the stack slots (spec/10_state.md R29, R31). -/
  hls : Vector Nat 16
  /-- Running or Fatal (spec/10_state.md R26). -/
  status : Status
  /-- The model's own field (log 3): how many random bytes have been drawn. -/
  draws : Nat
  /-- The model's own field (logs 5 and 6): the parameters this machine was made with. The step reads them; no
  instruction and no transaction changes them. -/
  params : Params
deriving DecidableEq, Repr

/-- The machine right after `reset()` with no image (spec/10_state.md R34, spec/70_reset_and_hazards.md R139). Memory
lists nothing: every byte is at its reset content, FONT at 0x000..0x04F and 0x00 elsewhere. The zeros of the registers
are the spec's decision D15 (log 7), the status its decision D17; `draws` (log 3) and `params`, at the spec's defaults
(logs 5 and 6), are the model's own. -/
def State.reset : State where
  memory := []
  v := Vector.replicate 16 0
  ireg := 0
  pc := 0x200
  stk := Vector.replicate 16 0
  sp := 0
  dt := 0
  st := 0
  fb := Vector.replicate 64 (Vector.replicate 32 false)
  key := Vector.replicate 16 false
  hlr := Vector.replicate 16 0
  hls := Vector.replicate 16 0
  status := .running
  draws := 0
  params := Params.defaults

end Sys2Proof.Machine
end

