-- ==== Sys2Proof/Machine/Ops.lean ====
section
/-! DEFINITION. The named operations over memory, registers, the call stack, the timers and the program counter that
every meaning is written with, and the one operation that raises a fatal condition. -/
namespace Sys2Proof.Machine

/-! ### Truncations (spec/00_scope.md R6) -/

/-- `trunc_8(v)`. -/
def trunc8 (v : Nat) : Byte := BitVec.ofNat 8 v

/-- `trunc_12(v)`, kept in a 16-bit register (spec/10_state.md R19). -/
def trunc12 (v : Nat) : Word := BitVec.ofNat 16 (v % 4096)

/-- `trunc_16(v)`. -/
def trunc16 (v : Nat) : Word := BitVec.ofNat 16 v

/-! ### Memory (spec/20_memory.md) -/

/-- What an address nothing has written reads as: its content after a reset with no image, FONT at 0x000..0x04F and
0x00 elsewhere (spec/10_state.md R34, spec/70_reset_and_hazards.md R140; log 4). -/
def Memory.unlisted (a : Nat) : Byte :=
  if a < Config.fontBytes then Config.font a else 0

/-- The byte a memory lists at the address `a`, if it lists one. -/
def Memory.lookup : Memory → Nat → Option Byte
  | [], _ => none
  | c :: m, a => if c.1 = a then some c.2 else Memory.lookup m a

/-- Puts the byte `b` at the address `a`, keeping the addresses strictly rising. -/
def Memory.insert : Memory → Nat → Byte → Memory
  | [], a, b => [(a, b)]
  | c :: m, a, b =>
    if a < c.1 then (a, b) :: c :: m
    else if a = c.1 then (a, b) :: m
    else c :: Memory.insert m a b

/-- Takes the address `a` off the list. -/
def Memory.erase (m : Memory) (a : Nat) : Memory :=
  m.filter (fun c => c.1 ≠ a)

/-- `MemRead(a, 1)` for any natural number `a` (spec/20_memory.md R40, R43). -/
def Memory.read (m : Memory) (a : Nat) : Byte :=
  match Memory.lookup m (a % 4096) with
  | some b => b
  | none => Memory.unlisted (a % 4096)

/-- `MemWrite(a, 1, b)` (spec/20_memory.md R41), keeping the canonical form: a byte equal to what an unlisted address
reads as is not listed. -/
def Memory.write (m : Memory) (a : Nat) (b : Byte) : Memory :=
  if b = Memory.unlisted (a % 4096) then Memory.erase m (a % 4096) else Memory.insert m (a % 4096) b

/-- `MemRead(a, 2)`, big-endian, each byte address masked on its own (spec/20_memory.md R42). -/
def Memory.read16 (m : Memory) (a : Nat) : Word :=
  wordOfBytes (Memory.read m a) (Memory.read m (a + 1))

/-- `MemWrite(a, 2, w)` (spec/20_memory.md R42). No instruction uses it. -/
def Memory.write16 (m : Memory) (a : Nat) (w : Word) : Memory :=
  Memory.write (Memory.write m a (highByte w)) (a + 1) (lowByte w)

/-- Consecutive bytes from the address `a` on (spec/70_reset_and_hazards.md R141). -/
def Memory.writeBytes (m : Memory) (a : Nat) : List Byte → Memory
  | [] => m
  | b :: bs => Memory.writeBytes (Memory.write m a b) (a + 1) bs

/-- The canonical form of a memory: addresses strictly rising and below 4096, and no cell holding what an unlisted
address reads as. -/
abbrev Memory.wf (m : Memory) : Prop :=
  m.Pairwise (fun c d => c.1 < d.1) ∧ ∀ c ∈ m, c.1 < 4096 ∧ c.2 ≠ Memory.unlisted c.1

/-- `MemRead(a, 1)` of a state (spec/20_memory.md R40). -/
def State.readByte (s : State) (a : Nat) : Byte :=
  Memory.read s.memory a

/-- `MemWrite(a, 1, b)` of a state (spec/20_memory.md R41). -/
def State.writeByte (s : State) (a : Nat) (b : Byte) : State :=
  { s with memory := Memory.write s.memory a b }

/-! ### Fetch (spec/20_memory.md R46, R47) -/

/-- The word the step fetches: `MemRead(pc, 2)` (spec/20_memory.md R46). -/
def State.fetch (s : State) : Word :=
  Memory.read16 s.memory s.pc.toNat

/-- What the fetched word decodes to, STRICT_59 at the value this machine was made with (spec/10_state.md R35,
spec/30_encoding.md R64, R70). -/
def State.decoded (s : State) : Decoded :=
  decodeWith s.params.strict59 s.fetch

/-- The state with a word in the two bytes the next fetch reads. -/
def State.placeWord (s : State) (bytes : List Byte) : State :=
  { s with memory := Memory.writeBytes s.memory s.pc.toNat bytes }

/-! ### General registers (spec/10_state.md R12-R15, R30) -/

/-- The index of VF, the flag register (spec/10_state.md R13). -/
def vf : Reg := 15

/-- Reads `V[i]`, with no side effect (spec/10_state.md R15). -/
def State.getV (s : State) (i : Reg) : Byte := s.v[i]

/-- `V[i] <- b`, which also sets `HLR[i]` to HL_DECAY (spec/10_state.md R30). -/
def State.setV (s : State) (i : Reg) (b : Byte) : State :=
  { s with v := s.v.set i.val b i.isLt, hlr := s.hlr.set i.val Config.hlDecay i.isLt }

/-- The registers V0..Vx in rising order (spec/44_address_memory.md R123, R124). -/
def regsUpTo (x : Reg) : List Reg :=
  (List.finRange 16).filter (fun k => k ≤ x)

/-! ### Program counter (spec/10_state.md R17-R19) -/

/-- `pc <- t`: every write stores `trunc_12(t)` (spec/10_state.md R19). -/
def State.setPc (s : State) (t : Nat) : State :=
  { s with pc := trunc12 t }

/-- `pc <- trunc_12(pc + 2)`, the next instruction (spec/10_state.md R18). -/
def State.advance (s : State) : State :=
  s.setPc (s.pc.toNat + 2)

/-- `Skip(c)` (spec/40_control.md section 5). -/
def State.skip (s : State) (c : Bool) : State :=
  if c then s.setPc (s.pc.toNat + 4) else s.setPc (s.pc.toNat + 2)

/-! ### Fatal conditions (spec/60_exceptions.md) -/

/-- The code of a fatal condition (spec/60_exceptions.md R126). -/
def Fatal.code : Fatal → Nat
  | .decodeFailure _ _ => 1
  | .stackOverflow _ => 2
  | .stackUnderflow _ => 3
  | .keyIndexRange _ _ => 4

/-- `raise Fatal(code, info)`: ends the step with the fatal outcome and no write of the instruction
(spec/00_scope.md R7, R8, spec/60_exceptions.md R127). The only way a meaning stops. -/
def raiseFatal (c : Fatal) : Host.Outcome State Fault Refusal :=
  .fault (.raised c)

/-- What a fatal outcome makes of the state before the step: only the status changes (spec/60_exceptions.md R127). -/
def State.enterFatal (s : State) (c : Fatal) : State :=
  { s with status := .fatal c }

/-! ### Call stack (spec/40_control.md R74, R75) -/

/-- `Push(w)` (spec/40_control.md R74). -/
def State.push (s : State) (w : Word) : Except Fatal State :=
  if h : s.sp.val < 16 then
    .ok { s with
      stk := s.stk.set s.sp.val w h
      hls := s.hls.set s.sp.val Config.hlDecay h
      sp := ⟨s.sp.val + 1, Nat.succ_lt_succ h⟩ }
  else .error (.stackOverflow s.pc)

/-- `Pop()`: the popped word and the state after it; the slot keeps its value (spec/40_control.md R75). -/
def State.pop (s : State) : Except Fatal (Word × State) :=
  match s.sp with
  | ⟨0, _⟩ => .error (.stackUnderflow s.pc)
  | ⟨k + 1, h⟩ =>
    have hk : k < 16 := Nat.lt_of_succ_lt_succ h
    .ok (s.stk[k], { s with
      hls := s.hls.set k Config.hlDecay hk
      sp := ⟨k, Nat.lt_succ_of_lt hk⟩ })

/-! ### Timers (spec/43_input_timers.md R116) -/

/-- One frame of a countdown timer: it stops at 0 (spec/43_input_timers.md R116). -/
def countDown (t : Byte) : Byte :=
  if t.toNat > 0 then BitVec.ofNat 8 (t.toNat - 1) else t

/-! ### Random draw (spec/41_alu.md R98) -/

/-- `draw8()`: a free byte, and the state in which it has been consumed (spec/41_alu.md R98; log 3). -/
def State.draw8 (s : State) : Byte × State :=
  (Config.draw8 s.draws, { s with draws := s.draws + 1 })

end Sys2Proof.Machine
end

