-- ==== Sys2Proof/Machine/Operands.lean ====
section
/-! DEFINITION. Every operand form of the block: a register, an 8-bit immediate, a 12-bit address, a count, a key number,
a byte of memory reached through I (spec/30_encoding.md R59, R60, spec/20_memory.md R44, spec/43_input_timers.md R109). -/
namespace Sys2Proof.Machine

/-- The operand Vx or Vy (spec/30_encoding.md R60). -/
def State.opReg (s : State) (x : Reg) : Byte := s.getV x

/-- The immediate `nn` (spec/30_encoding.md R59). -/
def opImm (nn : Byte) : Byte := nn

/-- The address `nnn` (spec/30_encoding.md R59). -/
def opAddr (nnn : Addr) : Nat := nnn.toNat

/-- The count `n`, 0..15 (spec/30_encoding.md R59). -/
def opCount (n : Nibble) : Nat := n.toNat

/-- The address of the byte at offset `k` from I, formed in full; every access masks it (spec/20_memory.md R44). -/
def State.addrI (s : State) (k : Nat) : Nat := s.ireg.toNat + k

/-- The key number held in Vx, or the fatal condition KEY_INDEX_RANGE (spec/43_input_timers.md R109). -/
def State.opKey (s : State) (x : Reg) : Except Fatal (Fin 16) :=
  if h : (s.getV x).toNat < 16 then .ok ⟨(s.getV x).toNat, h⟩
  else .error (.keyIndexRange s.pc (s.getV x))

/-- The least key that is down (spec/43_input_timers.md R112). -/
def leastKeyDown (key : Vector Bool 16) : Option (Fin 16) :=
  (List.finRange 16).find? (fun k => key[k])

end Sys2Proof.Machine
end

