-- ==== Sys2Proof/Machine/Flags.lean ====
section
/-! DEFINITION. Every flag computation of the block, on the values before the write, and the shared shape of the
instructions that write a result and then a flag (spec/41_alu.md R85, R86, spec/42_display.md R105). -/
namespace Sys2Proof.Machine

/-- A flag as the byte VF receives. -/
def flagByte (b : Bool) : Byte := if b then 1 else 0

/-- ADD Vx, Vy: 1 iff the unsigned sum exceeds 255 (spec/41_alu.md R92). -/
def carryFlag (a b : Byte) : Byte := flagByte (a.toNat + b.toNat > 255)

/-- SUB and SUBN: 1 iff the minuend is at least the subtrahend, "no borrow" (spec/41_alu.md R93, R94). -/
def noBorrowFlag (minuend subtrahend : Byte) : Byte := flagByte (minuend.toNat ≥ subtrahend.toNat)

/-- SHR: the bit shifted out, bit 0 of the old value (spec/41_alu.md R95). -/
def shiftRightFlag (a : Byte) : Byte := trunc8 (a.toNat % 2)

/-- SHL: the bit shifted out, bit 7 of the old value (spec/41_alu.md R96). -/
def shiftLeftFlag (a : Byte) : Byte := trunc8 (a.toNat / 128)

/-- DRW: 1 iff the blit collided (spec/42_display.md R105). -/
def collisionFlag (collided : Bool) : Byte := flagByte collided

/-- Writes the result to Vx and then the flag to VF, so that with x = 15 the flag remains (spec/41_alu.md R85). -/
def State.setVThenFlag (s : State) (x : Reg) (result flag : Byte) : State :=
  (s.setV x result).setV vf flag

end Sys2Proof.Machine
end

