-- ==== Sys2Proof/Machine/AddressMemory.lean ====
section
/-! DEFINITION. The meanings of the address register, font address, BCD and bulk transfer instructions
(spec/44_address_memory.md). The last three leave I as it is (R125). -/
namespace Sys2Proof.Machine

/-- LD I, nnn: `I <- zext_16(nnn)` (spec/44_address_memory.md R119). -/
def execLdI (nnn : Addr) (s : State) : Host.Outcome State Fault Refusal :=
  .next { s with ireg := trunc16 (opAddr nnn) }.advance

/-- ADD I, Vx: `I <- trunc_16(I + V[x])`, no flag (spec/44_address_memory.md R120). -/
def execAddI (x : Reg) (s : State) : Host.Outcome State Fault Refusal :=
  .next { s with ireg := trunc16 (s.ireg.toNat + (s.opReg x).toNat) }.advance

/-- LD F, Vx: `I <- V[x] * 5` (spec/44_address_memory.md R121). -/
def execLdF (x : Reg) (s : State) : Host.Outcome State Fault Refusal :=
  .next { s with ireg := trunc16 ((s.opReg x).toNat * 5) }.advance

/-- LD B, Vx: the hundreds, tens and units of Vx to I, I+1, I+2 (spec/44_address_memory.md R122). -/
def execLdB (x : Reg) (s : State) : Host.Outcome State Fault Refusal :=
  let v := (s.opReg x).toNat
  let s1 := s.writeByte (s.addrI 0) (trunc8 (v / 100))
  let s2 := s1.writeByte (s.addrI 1) (trunc8 (v / 10 % 10))
  let s3 := s2.writeByte (s.addrI 2) (trunc8 (v % 10))
  .next s3.advance

/-- LD [I], Vx: V0..Vx to I, I+1, .. in that order (spec/44_address_memory.md R123). -/
def execLdMemRegs (x : Reg) (s : State) : Host.Outcome State Fault Refusal :=
  .next ((regsUpTo x).foldl (fun t k => t.writeByte (t.addrI k.val) (t.getV k)) s).advance

/-- LD Vx, [I]: V0..Vx from I, I+1, .. in that order (spec/44_address_memory.md R124). -/
def execLdRegsMem (x : Reg) (s : State) : Host.Outcome State Fault Refusal :=
  .next ((regsUpTo x).foldl (fun t k => t.setV k (t.readByte (t.addrI k.val))) s).advance

end Sys2Proof.Machine
end

