-- ==== Sys2Proof/Machine/Alu.lean ====
section
/-! DEFINITION. The meanings of the loads, additions, subtractions, logic, shifts and the random byte
(spec/41_alu.md). Operands are read before any write; the flag is written last (R85). -/
namespace Sys2Proof.Machine

/-- LD Vx, nn: `V[x] <- nn` (spec/41_alu.md R87). -/
def execLdImm (x : Reg) (nn : Byte) (s : State) : Host.Outcome State Fault Refusal :=
  .next (s.setV x (opImm nn)).advance

/-- ADD Vx, nn: `V[x] <- trunc_8(V[x] + nn)`, no flag (spec/41_alu.md R89). -/
def execAddImm (x : Reg) (nn : Byte) (s : State) : Host.Outcome State Fault Refusal :=
  .next (s.setV x (trunc8 ((s.opReg x).toNat + (opImm nn).toNat))).advance

/-- LD Vx, Vy: `V[x] <- V[y]` (spec/41_alu.md R88). -/
def execLdReg (x y : Reg) (s : State) : Host.Outcome State Fault Refusal :=
  .next (s.setV x (s.opReg y)).advance

/-- OR Vx, Vy: `V[x] <- V[x] | V[y]`, no flag (spec/41_alu.md R90, R91). -/
def execOr (x y : Reg) (s : State) : Host.Outcome State Fault Refusal :=
  .next (s.setV x (s.opReg x ||| s.opReg y)).advance

/-- AND Vx, Vy: `V[x] <- V[x] & V[y]`, no flag (spec/41_alu.md R151, R91). -/
def execAnd (x y : Reg) (s : State) : Host.Outcome State Fault Refusal :=
  .next (s.setV x (s.opReg x &&& s.opReg y)).advance

/-- XOR Vx, Vy: `V[x] <- V[x] ^ V[y]`, no flag (spec/41_alu.md R152, R91). -/
def execXor (x y : Reg) (s : State) : Host.Outcome State Fault Refusal :=
  .next (s.setV x (s.opReg x ^^^ s.opReg y)).advance

/-- ADD Vx, Vy: the sum modulo 256, then the carry to VF (spec/41_alu.md R92). -/
def execAddReg (x y : Reg) (s : State) : Host.Outcome State Fault Refusal :=
  let a := s.opReg x
  let b := s.opReg y
  .next (s.setVThenFlag x (trunc8 (a.toNat + b.toNat)) (carryFlag a b)).advance

/-- SUB Vx, Vy: `Vx − Vy` modulo 256, then no-borrow to VF (spec/41_alu.md R93). -/
def execSub (x y : Reg) (s : State) : Host.Outcome State Fault Refusal :=
  let a := s.opReg x
  let b := s.opReg y
  .next (s.setVThenFlag x (trunc8 (a.toNat + 256 - b.toNat)) (noBorrowFlag a b)).advance

/-- SUBN Vx, Vy: `Vy − Vx` modulo 256 into Vx, then no-borrow to VF (spec/41_alu.md R94). -/
def execSubn (x y : Reg) (s : State) : Host.Outcome State Fault Refusal :=
  let a := s.opReg x
  let b := s.opReg y
  .next (s.setVThenFlag x (trunc8 (b.toNat + 256 - a.toNat)) (noBorrowFlag b a)).advance

/-- SHR Vx: right by one, then the bit shifted out to VF; y has no effect (spec/41_alu.md R95). -/
def execShr (x : Reg) (s : State) : Host.Outcome State Fault Refusal :=
  let a := s.opReg x
  .next (s.setVThenFlag x (a >>> 1) (shiftRightFlag a)).advance

/-- SHL Vx: left by one, then the bit shifted out to VF; y has no effect (spec/41_alu.md R96). -/
def execShl (x : Reg) (s : State) : Host.Outcome State Fault Refusal :=
  let a := s.opReg x
  .next (s.setVThenFlag x (a <<< 1) (shiftLeftFlag a)).advance

/-- RND Vx, nn: `V[x] <- nn & draw8()` (spec/41_alu.md R97, R98). -/
def execRnd (x : Reg) (nn : Byte) (s : State) : Host.Outcome State Fault Refusal :=
  let d := s.draw8
  .next (d.2.setV x (opImm nn &&& d.1)).advance

end Sys2Proof.Machine
end

