-- ==== Sys2Proof/Machine/Control.lean ====
section
/-! DEFINITION. The meanings of RET, JP, JP_V0, CALL and the skips on registers and immediates (spec/40_control.md). -/
namespace Sys2Proof.Machine

/-- RET: `pc <- trunc_12(Pop())`, or STACK_UNDERFLOW (spec/40_control.md R77). -/
def execRet (s : State) : Host.Outcome State Fault Refusal :=
  match s.pop with
  | .error c => raiseFatal c
  | .ok (t, s') => .next (s'.setPc t.toNat)

/-- JP nnn: `pc <- nnn` (spec/40_control.md R78). -/
def execJp (nnn : Addr) (s : State) : Host.Outcome State Fault Refusal :=
  .next (s.setPc (opAddr nnn))

/-- JP V0, nnn: `pc <- trunc_12(nnn + V[0])` (spec/40_control.md R79). -/
def execJpV0 (nnn : Addr) (s : State) : Host.Outcome State Fault Refusal :=
  .next (s.setPc (opAddr nnn + (s.opReg 0).toNat))

/-- CALL nnn: `Push(trunc_12(pc + 2)); pc <- nnn`, or STACK_OVERFLOW (spec/40_control.md R80). -/
def execCall (nnn : Addr) (s : State) : Host.Outcome State Fault Refusal :=
  match s.push (trunc12 (s.pc.toNat + 2)) with
  | .error c => raiseFatal c
  | .ok s' => .next (s'.setPc (opAddr nnn))

/-- SE Vx, nn: `Skip(V[x] = nn)` (spec/40_control.md R81). -/
def execSeImm (x : Reg) (nn : Byte) (s : State) : Host.Outcome State Fault Refusal :=
  .next (s.skip (s.opReg x == opImm nn))

/-- SNE Vx, nn: `Skip(V[x] ≠ nn)` (spec/40_control.md R82). -/
def execSneImm (x : Reg) (nn : Byte) (s : State) : Host.Outcome State Fault Refusal :=
  .next (s.skip (s.opReg x != opImm nn))

/-- SE Vx, Vy: `Skip(V[x] = V[y])`; the low nibble has no effect (spec/40_control.md R83). -/
def execSeReg (x y : Reg) (s : State) : Host.Outcome State Fault Refusal :=
  .next (s.skip (s.opReg x == s.opReg y))

/-- SNE Vx, Vy: `Skip(V[x] ≠ V[y])`; the low nibble has no effect (spec/40_control.md R84). -/
def execSneReg (x y : Reg) (s : State) : Host.Outcome State Fault Refusal :=
  .next (s.skip (s.opReg x != s.opReg y))

end Sys2Proof.Machine
end

