-- ==== Sys2Proof/Machine/Display.lean ====
section
/-! DEFINITION. The framebuffer's cell primitives, the XOR blit with collision, and the meanings of CLS and DRW
(spec/42_display.md). -/
namespace Sys2Proof.Machine

/-- `getPixel(x, y)`: `FB[x mod 64][y mod 32]` (spec/42_display.md R99). -/
def Framebuffer.getPixel (fb : Framebuffer) (x y : Nat) : Bool :=
  (fb[x % 64]'(Nat.mod_lt x (by decide)))[y % 32]'(Nat.mod_lt y (by decide))

/-- `setPixel(x, y, b)` (spec/42_display.md R99). -/
def Framebuffer.setPixel (fb : Framebuffer) (x y : Nat) (b : Bool) : Framebuffer :=
  have hx : x % 64 < 64 := Nat.mod_lt x (by decide)
  fb.set (x % 64) (fb[x % 64].set (y % 32) b (Nat.mod_lt y (by decide))) hx

/-- `togglePixel(x, y)` (spec/42_display.md R99). -/
def Framebuffer.togglePixel (fb : Framebuffer) (x y : Nat) : Framebuffer :=
  Framebuffer.setPixel fb x y (!Framebuffer.getPixel fb x y)

/-- `clear()`: every cell false (spec/42_display.md R99). -/
def Framebuffer.cleared : Framebuffer :=
  Vector.replicate 64 (Vector.replicate 32 false)

/-- One cell of a blit: the collision test on the old cell, then the XOR (spec/42_display.md R100). -/
def blitCell (scope : CollisionScope) (x y : Nat) (bit : Bool) (acc : Framebuffer × Bool) : Framebuffer × Bool :=
  let old := Framebuffer.getPixel acc.1 x y
  (Framebuffer.setPixel acc.1 x y (old ^^ bit), acc.2 || ((scope == .wholeBox || bit) && old))

/-- One row of a blit, its most significant bit leftmost (spec/42_display.md R100). -/
def blitRow (scope : CollisionScope) (x y : Nat) (row : Byte) (acc : Framebuffer × Bool) : Framebuffer × Bool :=
  (List.range 8).foldl (fun acc c => blitCell scope (x + c) y (row.getLsbD (7 - c)) acc) acc

/-- `Blit(x, y, a, n)` for a value of COLLISION_SCOPE: the framebuffer after it, and whether it collided
(spec/42_display.md R100, R102). -/
def blitWith (scope : CollisionScope) (m : Memory) (x y a n : Nat) (fb : Framebuffer) : Framebuffer × Bool :=
  (List.range n).foldl (fun acc r => blitRow scope x (y + r) (Memory.read m (a + r)) acc) (fb, false)

/-- `Blit(x, y, a, n)` of a state, COLLISION_SCOPE at the value this machine was made with (spec/42_display.md R100,
R102). -/
def State.blit (s : State) (x y a n : Nat) : Framebuffer × Bool :=
  blitWith s.params.collisionScope s.memory x y a n s.fb

/-- CLS: `clear()` (spec/42_display.md R104). -/
def execCls (s : State) : Host.Outcome State Fault Refusal :=
  .next { s with fb := Framebuffer.cleared }.advance

/-- DRW Vx, Vy, n: the blit at (Vx, Vy) of n rows from I, then the collision to VF (spec/42_display.md R105). -/
def execDrw (x y : Reg) (n : Nibble) (s : State) : Host.Outcome State Fault Refusal :=
  let r := s.blit (s.opReg x).toNat (s.opReg y).toNat (s.addrI 0) (opCount n)
  .next ({ s with fb := r.1 }.setV vf (collisionFlag r.2)).advance

end Sys2Proof.Machine
end

