-- ==== Sys2Proof/Machine/InputTimers.lean ====
section
/-! DEFINITION. The meanings of the key latch and timer instructions (spec/43_input_timers.md). -/
namespace Sys2Proof.Machine

/-- SKP Vx: `Skip(KEY[V[x]])`, or KEY_INDEX_RANGE (spec/43_input_timers.md R110). -/
def execSkp (x : Reg) (s : State) : Host.Outcome State Fault Refusal :=
  match s.opKey x with
  | .error c => raiseFatal c
  | .ok k => .next (s.skip s.key[k])

/-- SKNP Vx: `Skip(not KEY[V[x]])`, or KEY_INDEX_RANGE (spec/43_input_timers.md R111). -/
def execSknp (x : Reg) (s : State) : Host.Outcome State Fault Refusal :=
  match s.opKey x with
  | .error c => raiseFatal c
  | .ok k => .next (s.skip (!s.key[k]))

/-- LD Vx, K: the least key down to Vx, that key cleared; with no key down nothing changes and the pc stays
(spec/43_input_timers.md R112). -/
def execLdVxK (x : Reg) (s : State) : Host.Outcome State Fault Refusal :=
  match leastKeyDown s.key with
  | none => .next s
  | some k => .next { s.setV x (trunc8 k.val) with key := s.key.set k.val false k.isLt }.advance

/-- LD Vx, DT: `V[x] <- DT` (spec/43_input_timers.md R113). -/
def execLdVxDT (x : Reg) (s : State) : Host.Outcome State Fault Refusal :=
  .next (s.setV x s.dt).advance

/-- LD DT, Vx: `DT <- V[x]` (spec/43_input_timers.md R114). -/
def execLdDTVx (x : Reg) (s : State) : Host.Outcome State Fault Refusal :=
  .next { s with dt := s.opReg x }.advance

/-- LD ST, Vx: `ST <- V[x]` (spec/43_input_timers.md R115). -/
def execLdSTVx (x : Reg) (s : State) : Host.Outcome State Fault Refusal :=
  .next { s with st := s.opReg x }.advance

end Sys2Proof.Machine
end

