-- ==== Sys2Proof/Machine/Step.lean ====
section
/-! DEFINITION. One step of the machine (spec/10_state.md R35), and an instruction put where the next step fetches. -/
namespace Sys2Proof.Machine

/-- One fetch/decode/execute while Running; no step is taken while Fatal (spec/10_state.md R26, R35). -/
def step (s : State) : Host.Outcome State Fault Refusal :=
  match s.status with
  | .fatal c => .fault (.alreadyFatal c)
  | .running =>
    match s.decoded with
    | .inst i => exec i s
    | .invalid _ => raiseFatal (.decodeFailure s.pc s.fetch)

/-- The state with an instruction's word stored at the pc, its high byte first (log 9). -/
def State.withFetchWord (s : State) (nbits w : Nat) : State :=
  s.placeWord (tableBytes nbits w)

end Sys2Proof.Machine
end

