-- ==== Sys2Proof/Machine/Events.lean ====
section
/-! DEFINITION. The block's transactions other than the bare step (spec/10_state.md R36): reset with an image, tick,
decay, setKey and the pure reads, and what each makes of the state. They fall between two steps, any number of times
and in any order (R38): a schedule is a list of events (log 8). -/
namespace Sys2Proof.Machine

/-! ### Reset (spec/70_reset_and_hazards.md R139-R141) -/

/-- What a reset reports of its image (spec/70_reset_and_hazards.md R141). -/
inductive LoadResult where
  | loaded (len : Nat)
  | empty
  | rejected (len : Nat)
deriving DecidableEq, Repr

/-- Whether an image is loaded, absent or rejected (spec/70_reset_and_hazards.md R141). -/
def loadResult : Option (List Byte) → LoadResult
  | none => .empty
  | some image =>
    if image.length = 0 then .empty
    else if image.length ≤ Config.imageMax then .loaded image.length
    else .rejected image.length

/-- The memory after a reset: the font and zeros, and the image from 0x200 on when it is accepted
(spec/70_reset_and_hazards.md R140, R141). -/
def resetMemory : Option (List Byte) → Memory
  | none => []
  | some image =>
    if image.length ≤ Config.imageMax then Memory.writeBytes [] Config.imageBase image else []

/-- The machine with the parameters `p` after `reset(image?)` (spec/70_reset_and_hazards.md R139). The count of random
bytes drawn before goes on, so that no two draws are the same free value (log 3). -/
def State.resetWith (p : Params) (draws : Nat) (image : Option (List Byte)) : State :=
  { State.reset with memory := resetMemory image, draws := draws, params := p }

/-! ### Tick, decay, setKey -/

/-- `tick()`: both timers count down in one event (spec/43_input_timers.md R116). -/
def State.tick (s : State) : State :=
  { s with dt := countDown s.dt, st := countDown s.st }

/-- One frame of sixteen highlight counters: each goes down by one and stops at 0 (spec/10_state.md R32). -/
def decayed (hl : Vector Nat 16) : Vector Nat 16 :=
  Vector.ofFn (fun i : Fin 16 => hl[i] - 1)

/-- `decay()`: every highlight counter goes down by one and stops at 0 (spec/10_state.md R32). -/
def State.decay (s : State) : State :=
  { s with hlr := decayed s.hlr, hls := decayed s.hls }

/-- `setKey(k, b)`: `KEY[k] <- b` (spec/10_state.md R36, spec/43_input_timers.md R108). -/
def State.setKey (s : State) (k : Fin 16) (b : Bool) : State :=
  { s with key := s.key.set k.val b k.isLt }

/-! ### Host reads (spec/10_state.md R36, R37) -/

/-- `soundActive = (ST ≠ 0)` (spec/43_input_timers.md R118). -/
def State.soundActive (s : State) : Bool :=
  s.st != 0

/-- The word at pc is a jump to itself, or the status is Fatal (spec/70_reset_and_hazards.md R150). -/
def State.parked (s : State) : Bool :=
  match s.status with
  | .fatal _ => true
  | .running =>
    match s.decoded with
    | .inst (.jp nnn) => nnn.toNat == s.pc.toNat
    | _ => false

/-- What the host may read (spec/10_state.md R36, R37). -/
inductive Query where
  | pixel (x y : Nat)
  | v (i : Fin 16)
  | hlr (i : Fin 16)
  | hls (j : Fin 16)
  | ireg
  | pc
  | stk (j : Fin 16)
  | sp
  | dt
  | st
  | key (k : Fin 16)
  | memory (a : Nat)
  | soundActive
  | status
deriving DecidableEq, Repr

/-- What a transaction reports to the host. -/
inductive Answer where
  /-- The event took effect and reports nothing. -/
  | done
  /-- A step or tick asked for while the status is Fatal: it is not taken (spec/60_exceptions.md R128). -/
  | notTaken
  /-- The step was fatal (spec/00_scope.md R8). -/
  | fatal (c : Fatal)
  | load (r : LoadResult)
  | bit (b : Bool)
  | byte (b : Byte)
  | word (w : Word)
  | count (n : Nat)
  | status (c : Status)
deriving DecidableEq, Repr

/-- The value a host read reports (spec/10_state.md R37, spec/42_display.md R99). -/
def State.ask (s : State) : Query → Answer
  | .pixel x y => .bit (Framebuffer.getPixel s.fb x y)
  | .v i => .byte (s.getV i)
  | .hlr i => .count s.hlr[i]
  | .hls j => .count s.hls[j]
  | .ireg => .word s.ireg
  | .pc => .word s.pc
  | .stk j => .word s.stk[j]
  | .sp => .count s.sp.val
  | .dt => .byte s.dt
  | .st => .byte s.st
  | .key k => .bit s.key[k]
  | .memory a => .byte (s.readByte a)
  | .soundActive => .bit s.soundActive
  | .status => .status s.status

/-! ### The transactions -/

/-- A transaction of the block's interface (spec/10_state.md R36). The random byte is no transaction of its own: RND
draws it (log 3). -/
inductive Event where
  | reset (image : Option (List Byte))
  | step
  | tick
  | decay
  | setKey (k : Fin 16) (b : Bool)
  | read (q : Query)
deriving DecidableEq, Repr

/-- A step as a transaction: the next state, or on a fatal outcome the state before the step with its status Fatal
(spec/60_exceptions.md R127); nothing while the status is Fatal already (R128). -/
def State.stepEvent (s : State) : State × Answer :=
  match step s with
  | .next t => (t, .done)
  | .fault (.raised c) => (s.enterFatal c, .fatal c)
  | .fault (.alreadyFatal _) => (s, .notTaken)
  | .refused _ => (s, .notTaken)

/-- A tick as a transaction: allowed only while Running (spec/10_state.md R36, spec/43_input_timers.md R117). -/
def State.tickEvent (s : State) : State × Answer :=
  match s.status with
  | .running => (s.tick, .done)
  | .fatal _ => (s, .notTaken)

/-- What a transaction makes of the state and what it reports (spec/10_state.md R36). -/
def transact (e : Event) (s : State) : State × Answer :=
  match e with
  | .reset image => (State.resetWith s.params s.draws image, .load (loadResult image))
  | .step => s.stepEvent
  | .tick => s.tickEvent
  | .decay => (s.decay, .done)
  | .setKey k b => (s.setKey k b, .done)
  | .read q => (s, s.ask q)

/-- The state after a schedule of transactions, in order (spec/10_state.md R38). -/
def runEvents : List Event → State → State
  | [], s => s
  | e :: es, s => runEvents es (transact e s).1

end Sys2Proof.Machine
end

