-- ==== Sys2Proof/Safety.lean ====
section
/-! DEFINITION. What counts as a good state and a good run, in the terms claims use: the invariant the spec's rules keep,
reachability under every schedule, and safety (no fatal condition). -/
namespace Sys2Proof.Machine

/-- The invariant of the Machine aggregate: pc in 0..4095 (spec/10_state.md R19), every stack slot holds a 12-bit
return address (spec/40_control.md R77), no highlight counter above HL_DECAY (spec/10_state.md R29), memory in its
canonical form (log 4). -/
structure State.Inv (s : State) : Prop where
  pc_lt : s.pc.toNat < 4096
  stk_lt : ∀ j : Fin 16, s.stk[j].toNat < 4096
  hlr_le : ∀ i : Fin 16, s.hlr[i] ≤ Config.hlDecay
  hls_le : ∀ j : Fin 16, s.hls[j] ≤ Config.hlDecay
  memory_wf : Memory.wf s.memory

/-- The states some schedule of transactions reaches from a reset, whatever the parameters (spec/10_state.md R36, R38). -/
inductive Reachable : State → Prop where
  | reset (p : Params) (draws : Nat) (image : Option (List Byte)) : Reachable (State.resetWith p draws image)
  | event {s : State} (e : Event) (h : Reachable s) : Reachable (transact e s).1

/-- No fatal condition has been raised (spec/10_state.md R26). -/
def State.isRunning (s : State) : Bool :=
  s.status == .running

/-- Every state of the schedule, the first and the last included, is Running: no step of it was fatal, and every step
and tick of it was taken. -/
def safeRun : List Event → State → Bool
  | [], s => s.isRunning
  | e :: es, s => s.isRunning && safeRun es (transact e s).1

end Sys2Proof.Machine
end

