-- ==== Sys2Proof/Certificates/Slice0/Obligations.lean ====
section
/-! DEFINITION. The statements about the machine, for the provers, with the words they are said in. Each follows the
rule of spec/ its docstring names; where the spec marks a choice as its own decision D<n>, the docstring says so. -/

namespace Sys2Proof.Spec

open Sys2Proof.Machine

/-! ### Words the statements use -/

/-- `exec i s` answers a next state, and `P` holds of it. -/
def Completes (i : Instr) (s : State) (P : State → Prop) : Prop :=
  ∃ t, exec i s = .next t ∧ P t

/-- The next pc is `trunc_12(pc + d)` (spec/10_state.md R18, R19). -/
def PcMoves (s t : State) (d : Nat) : Prop :=
  t.pc.toNat = (s.pc.toNat + d) % 4096

/-- `V[x]` holds `b` and its highlight counter was set to 60 (spec/10_state.md R30). -/
def Wrote (t : State) (x : Reg) (b : Byte) : Prop :=
  t.v[x] = b ∧ t.hlr[x] = 60

/-- What an instruction may change besides the pc. -/
structure Touches where
  /-- The general registers written. -/
  regs : List Reg := []
  /-- The addresses, before masking, of the bytes stored to. -/
  bytes : List Nat := []
  /-- The stack slots written. -/
  slots : List Nat := []
  /-- The stack slots whose highlight counter is set. -/
  marks : List Nat := []
  /-- The keys cleared. -/
  keys : List Nat := []
  ireg : Bool := false
  sp : Bool := false
  dt : Bool := false
  st : Bool := false
  fb : Bool := false
  draws : Bool := false

/-- Everything that `W` does not list, the pc aside, is in `t` as it was in `s`. -/
structure Frame (W : Touches) (s t : State) : Prop where
  regs : ∀ j : Reg, j ∉ W.regs → t.v[j] = s.v[j] ∧ t.hlr[j] = s.hlr[j]
  bytes : ∀ a : Nat, (∀ b ∈ W.bytes, a % 4096 ≠ b % 4096) → t.readByte a = s.readByte a
  slots : ∀ j : Fin 16, j.val ∉ W.slots → t.stk[j] = s.stk[j]
  marks : ∀ j : Fin 16, j.val ∉ W.marks → t.hls[j] = s.hls[j]
  keys : ∀ k : Fin 16, k.val ∉ W.keys → t.key[k] = s.key[k]
  ireg : W.ireg = false → t.ireg = s.ireg
  sp : W.sp = false → t.sp = s.sp
  dt : W.dt = false → t.dt = s.dt
  st : W.st = false → t.st = s.st
  fb : W.fb = false → t.fb = s.fb
  draws : W.draws = false → t.draws = s.draws
  status : t.status = s.status
  params : t.params = s.params

/-- Whenever `exec i s` answers a next state, only what `W` lists has changed, the pc aside. -/
def Keeps (i : Instr) (W : State → Touches) : Prop :=
  ∀ s t, exec i s = .next t → Frame (W s) s t

/-- The addresses of the `n` bytes from I on, as the meanings form them. -/
def bytesAtI (s : State) (n : Nat) : List Nat :=
  (List.range n).map s.addrI

/-- How many columns right of column `x` the column `p` lies, on the torus (spec/42_display.md R101). -/
def colInBox (x p : Nat) : Nat := (p + (64 - x % 64)) % 64

/-- How many rows below row `y` the row `q` lies, on the torus (spec/42_display.md R101). -/
def rowInBox (y q : Nat) : Nat := (q + (32 - y % 32)) % 32

/-- The bit an n-row sprite at address `a`, drawn at (x, y), puts on cell (p, q): false outside its 8 x n box. -/
def spriteBit (m : Memory) (x y a n p q : Nat) : Bool :=
  decide (colInBox x p < 8) && decide (rowInBox y q < n) &&
    (Memory.read m (a + rowInBox y q)).getLsbD (7 - colInBox x p)

/-- The general registers an instruction writes, as the table of spec/10_state.md R15 lists them. -/
def registersWritten : Instr → List Reg
  | .ldImm x _ | .addImm x _ | .ldReg x _ | .orReg x _ | .andReg x _ | .xorReg x _ | .rnd x _ | .ldVxDT x
  | .ldVxK x => [x]
  | .addReg x _ | .sub x _ | .shr x _ | .subn x _ | .shl x _ => [x, 15]
  | .drw _ _ _ => [15]
  | .ldRegsMem x => regsUpTo x
  | .cls | .ret | .jp _ | .call _ | .seImm _ _ | .sneImm _ _ | .seReg _ _ _ | .sneReg _ _ _ | .ldI _ | .jpV0 _
  | .skp _ | .sknp _ | .ldDTVx _ | .ldSTVx _ | .addI _ | .ldF _ | .ldB _ | .ldMemRegs _ => []

/-- A state without what no instruction reads: the highlight counters and the sound timer. -/
def withoutOutputs (s : State) : State :=
  { s with hlr := Vector.replicate 16 0, hls := Vector.replicate 16 0, st := 0 }

/-- An outcome with its next state seen through `f`. -/
def seenThrough (f : State → State) : Host.Outcome State Fault Refusal → Host.Outcome State Fault Refusal
  | .next t => .next (f t)
  | .fault r => .fault r
  | .refused r => .refused r

/-- The word is Invalid for this value of STRICT_59. -/
def IsInvalid (strict : Bool) (op : Word) : Prop :=
  ∃ why, decodeWith strict op = .invalid why

/-- Whether an event is a reset. -/
def isReset : Event → Bool
  | .reset _ => true
  | _ => false

end Sys2Proof.Spec

open Sys2Proof Sys2Proof.Machine Sys2Proof.Spec

/-! ### Encoding (spec/30_encoding.md) -/

/-- Decoding the encoding of any admitted instruction gives it back, operands included, for both values of STRICT_59. That
the ignored bits come back too is the model's choice, log 11. -/
def Obligations.DecodeOfEncodeIsTheInstruction : Prop :=
  ∀ (strict : Bool) (i : Instr), wellFormedWith strict i = true → decodeWith strict (encode i) = .inst i

/-- A word that decodes to an instruction is that instruction's encoding, and the instruction is admitted: each word has
one meaning and no bit of it is dropped. That the ignored bits come back too (the n of 5xyn and 9xyn, the y of 8xy6 and
8xyE) is the model's choice, log 11: the spec's Decode gives SE_reg(x, y) and SNE_reg(x, y) without n. -/
def Obligations.EncodeOfDecodeIsTheWord : Prop :=
  ∀ (strict : Bool) (op : Word) (i : Instr),
    decodeWith strict op = .inst i → encode i = op ∧ wellFormedWith strict i = true

/-- Family 0 has two instructions, and every other word of it is invalid (spec/30_encoding.md R62; 00EE is the spec's
decision D2 (log 10), and that all 12 low bits decide is its decision D4). -/
def Obligations.FamilyZeroHasTwoWords : Prop :=
  ∀ strict : Bool,
    decodeWith strict 0x00E0 = .inst .cls ∧ decodeWith strict 0x00EE = .inst .ret ∧
    ∀ op : Word, op.toNat / 4096 = 0 → op ≠ 0x00E0 → op ≠ 0x00EE → IsInvalid strict op

/-- The families with no second dispatch (spec/30_encoding.md R63; the family numbers the source does not show are the
spec's decision D2 (log 10), LD I its decision D3). -/
def Obligations.PlainFamiliesDecodeEveryWord : Prop :=
  ∀ (strict : Bool) (nnn : Addr) (x y : Reg) (nn : Byte) (n : Nibble),
    decodeWith strict (BitVec.ofNat 16 (0x1000 + nnn.toNat)) = .inst (.jp nnn) ∧
    decodeWith strict (BitVec.ofNat 16 (0x2000 + nnn.toNat)) = .inst (.call nnn) ∧
    decodeWith strict (BitVec.ofNat 16 (0xA000 + nnn.toNat)) = .inst (.ldI nnn) ∧
    decodeWith strict (BitVec.ofNat 16 (0xB000 + nnn.toNat)) = .inst (.jpV0 nnn) ∧
    decodeWith strict (BitVec.ofNat 16 (0x3000 + x.val * 0x100 + nn.toNat)) = .inst (.seImm x nn) ∧
    decodeWith strict (BitVec.ofNat 16 (0x4000 + x.val * 0x100 + nn.toNat)) = .inst (.sneImm x nn) ∧
    decodeWith strict (BitVec.ofNat 16 (0x6000 + x.val * 0x100 + nn.toNat)) = .inst (.ldImm x nn) ∧
    decodeWith strict (BitVec.ofNat 16 (0x7000 + x.val * 0x100 + nn.toNat)) = .inst (.addImm x nn) ∧
    decodeWith strict (BitVec.ofNat 16 (0xC000 + x.val * 0x100 + nn.toNat)) = .inst (.rnd x nn) ∧
    decodeWith strict (BitVec.ofNat 16 (0xD000 + x.val * 0x100 + y.val * 0x10 + n.toNat)) = .inst (.drw x y n)

/-- Families 5 and 9 under both values of STRICT_59 (spec/30_encoding.md R64, the spec's decision D5). The family numbers
are its decision D2, from general knowledge (log 10, PRESUMED); that the ignored nibble n comes back is the model's choice,
log 11: the spec's Decode gives SE_reg(x, y) and SNE_reg(x, y) without n. -/
def Obligations.FamiliesFiveAndNineUnderStrict59 : Prop :=
  ∀ (x y : Reg) (n : Nibble),
    let five : Word := BitVec.ofNat 16 (0x5000 + x.val * 0x100 + y.val * 0x10 + n.toNat)
    let nine : Word := BitVec.ofNat 16 (0x9000 + x.val * 0x100 + y.val * 0x10 + n.toNat)
    decodeWith false five = .inst (.seReg x y n) ∧ decodeWith false nine = .inst (.sneReg x y n) ∧
    (if n = 0 then decodeWith true five = .inst (.seReg x y n) ∧ decodeWith true nine = .inst (.sneReg x y n)
     else IsInvalid true five ∧ IsInvalid true nine)

/-- Families 8, E and F: the words the second dispatch admits, and that it admits no other (spec/30_encoding.md R65,
R66, R67; the family numbers and sub-function values but 8XY4's are the spec's decision D2, log 10). That the ignored y of
8xy6 and 8xyE comes back is the model's choice, log 11. -/
def Obligations.SecondDispatchOfFamilies8EF : Prop :=
  ∀ (strict : Bool) (x y : Reg) (n : Nibble) (nn : Byte),
    let eight (k : Nat) : Word := BitVec.ofNat 16 (0x8000 + x.val * 0x100 + y.val * 0x10 + k)
    let low (f k : Nat) : Word := BitVec.ofNat 16 (f * 0x1000 + x.val * 0x100 + k)
    (decodeWith strict (eight 0x0) = .inst (.ldReg x y) ∧ decodeWith strict (eight 0x1) = .inst (.orReg x y) ∧
     decodeWith strict (eight 0x2) = .inst (.andReg x y) ∧ decodeWith strict (eight 0x3) = .inst (.xorReg x y) ∧
     decodeWith strict (eight 0x4) = .inst (.addReg x y) ∧ decodeWith strict (eight 0x5) = .inst (.sub x y) ∧
     decodeWith strict (eight 0x6) = .inst (.shr x y) ∧ decodeWith strict (eight 0x7) = .inst (.subn x y) ∧
     decodeWith strict (eight 0xE) = .inst (.shl x y)) ∧
    (n.toNat ∉ [0x0, 0x1, 0x2, 0x3, 0x4, 0x5, 0x6, 0x7, 0xE] → IsInvalid strict (eight n.toNat)) ∧
    (decodeWith strict (low 0xE 0x9E) = .inst (.skp x) ∧ decodeWith strict (low 0xE 0xA1) = .inst (.sknp x)) ∧
    (nn.toNat ∉ [0x9E, 0xA1] → IsInvalid strict (low 0xE nn.toNat)) ∧
    (decodeWith strict (low 0xF 0x07) = .inst (.ldVxDT x) ∧ decodeWith strict (low 0xF 0x0A) = .inst (.ldVxK x) ∧
     decodeWith strict (low 0xF 0x15) = .inst (.ldDTVx x) ∧ decodeWith strict (low 0xF 0x18) = .inst (.ldSTVx x) ∧
     decodeWith strict (low 0xF 0x1E) = .inst (.addI x) ∧ decodeWith strict (low 0xF 0x29) = .inst (.ldF x) ∧
     decodeWith strict (low 0xF 0x33) = .inst (.ldB x) ∧ decodeWith strict (low 0xF 0x55) = .inst (.ldMemRegs x) ∧
     decodeWith strict (low 0xF 0x65) = .inst (.ldRegsMem x)) ∧
    (nn.toNat ∉ [0x07, 0x0A, 0x15, 0x18, 0x1E, 0x29, 0x33, 0x55, 0x65] → IsInvalid strict (low 0xF nn.toNat))

/-- Words of the spec's own examples, at least one of each of the sixteen families, decode to the instruction they stand
for. The source gives 0x00E0, 0x6005, 0x6102 and 0x8014 (spec/30_encoding.md section 0); every other pattern is the spec's
decision D2, taken from general knowledge (log 10, PRESUMED), and 0xA300 also rests on D3, 0xF30A on D3 and D12. -/
def Obligations.WordsOfTheSpecDecode : Prop :=
  decode 0x00E0 = .inst .cls ∧ decode 0x1234 = .inst (.jp 0x234) ∧ decode 0x2206 = .inst (.call 0x206) ∧
  decode 0x3005 = .inst (.seImm 0 5) ∧ decode 0x4006 = .inst (.sneImm 0 6) ∧ decode 0x5010 = .inst (.seReg 0 1 0) ∧
  decode 0x6005 = .inst (.ldImm 0 5) ∧ decode 0x6102 = .inst (.ldImm 1 2) ∧ decode 0x7002 = .inst (.addImm 0 2) ∧
  decode 0x8014 = .inst (.addReg 0 1) ∧ decode 0x9010 = .inst (.sneReg 0 1 0) ∧ decode 0xA300 = .inst (.ldI 0x300) ∧
  decode 0xB300 = .inst (.jpV0 0x300) ∧ decode 0xC00F = .inst (.rnd 0 0x0F) ∧ decode 0xD121 = .inst (.drw 1 2 1) ∧
  decode 0xE09E = .inst (.skp 0) ∧ decode 0xF30A = .inst (.ldVxK 3) ∧ decode 0xF265 = .inst (.ldRegsMem 2)

/-! ### The step and the fatal conditions (spec/10_state.md R35, spec/60_exceptions.md) -/

/-- The fetched word is big-endian, each of its two byte addresses masked on its own, at an odd pc and at the top of
memory alike (spec/20_memory.md R46, R47; that the fetch is read16 is the spec's decision D18). -/
def Obligations.FetchIsBigEndianAndWraps : Prop :=
  ∀ s : State, s.fetch.toNat = 256 * (s.readByte s.pc.toNat).toNat + (s.readByte ((s.pc.toNat + 1) % 4096)).toNat

/-- R35: while Running, the step fetches, decodes (with the machine's own STRICT_59), raises DECODE_FAILURE on an invalid
word and executes any other, and it either produces the next state or raises a fatal condition. -/
def Obligations.StepRunsTheDecodedInstruction : Prop :=
  ∀ s : State, s.status = .running →
    (∀ i, decodeWith s.params.strict59 s.fetch = .inst i → step s = exec i s) ∧
    (∀ why, decodeWith s.params.strict59 s.fetch = .invalid why → step s = .fault (.raised (.decodeFailure s.pc s.fetch))) ∧
    ((∃ t, step s = .next t) ∨ (∃ c, step s = .fault (.raised c)))

/-- In every status a host read answers and changes nothing (spec/10_state.md R33, R37). While the status is Fatal no step
and no tick is taken and only a reset leaves the status, whatever the schedule (spec/60_exceptions.md R128; that the
status is terminal is the spec's decision D17, and how the model's step answers there is log 2). -/
def Obligations.FatalStatusIsTerminal : Prop :=
  ∀ s : State, (∀ q, transact (.read q) s = (s, s.ask q)) ∧ ∀ c : Fatal, s.status = .fatal c →
    step s = .fault (.alreadyFatal c) ∧ transact .step s = (s, .notTaken) ∧ transact .tick s = (s, .notTaken) ∧
    (∀ es : List Event, (∀ e ∈ es, isReset e = false) → (runEvents es s).status = .fatal c) ∧
    (∀ image, (transact (.reset image) s).1.status = .running)

/-- A fatal step is precise: every component keeps its value and only the status changes (spec/60_exceptions.md R127;
that the state is kept is the spec's decision D17). -/
def Obligations.FatalStepChangesOnlyTheStatus : Prop :=
  ∀ (s : State) (c : Fatal), step s = .fault (.raised c) →
    (transact .step s).2 = .fatal c ∧ (transact .step s).1.status = .fatal c ∧
    { (transact .step s).1 with status := s.status } = s

/-- While Running, the step is fatal exactly in the four cases of spec/60_exceptions.md R126 (codes and info: the spec's
decision D17), decode first, and it never stops otherwise (R130). -/
def Obligations.FatalConditionsAreExactlyFour : Prop :=
  ∀ s : State, s.status = .running →
    (∀ c : Fatal, step s = .fault (.raised c) ↔
      ((∃ why, s.decoded = .invalid why) ∧ c = .decodeFailure s.pc s.fetch ∧ c.code = 1) ∨
      ((∃ nnn, s.decoded = .inst (.call nnn)) ∧ s.sp.val = 16 ∧ c = .stackOverflow s.pc ∧ c.code = 2) ∨
      (s.decoded = .inst .ret ∧ s.sp.val = 0 ∧ c = .stackUnderflow s.pc ∧ c.code = 3) ∨
      (∃ x, (s.decoded = .inst (.skp x) ∨ s.decoded = .inst (.sknp x)) ∧ s.v[x].toNat > 15 ∧
        c = .keyIndexRange s.pc s.v[x] ∧ c.code = 4)) ∧
    (∀ c, step s ≠ .fault (.alreadyFatal c)) ∧ (∀ r, step s ≠ .refused r)

/-- R145: with no program the first step is a decode failure at 0x200, and so is any step that fetches zeroed memory. -/
def Obligations.ZeroedMemoryIsADecodeFailure : Prop :=
  (∀ (p : Params) (draws : Nat), step (State.resetWith p draws none) = .fault (.raised (.decodeFailure 0x200 0x0000))) ∧
  ∀ s : State, s.status = .running → s.readByte s.pc.toNat = 0 → s.readByte (s.pc.toNat + 1) = 0 →
    step s = .fault (.raised (.decodeFailure s.pc 0x0000))

/-- A parked Running machine stays exactly as it is at every further step (spec/70_reset_and_hazards.md R150). -/
def Obligations.ParkedStepChangesNothing : Prop :=
  ∀ s : State, s.status = .running → s.parked = true → step s = .next s

/-! ### Control and the call stack (spec/40_control.md) -/

/-- RET pops, masks and keeps the slot; on the empty stack it is STACK_UNDERFLOW (spec/40_control.md R77; that the slot
keeps its value and is highlighted is the spec's decision D22). -/
def Obligations.ReturnPopsTheStack : Prop :=
  ∀ s : State,
    (s.sp.val = 0 → exec .ret s = .fault (.raised (.stackUnderflow s.pc))) ∧
    (∀ k : Fin 16, s.sp.val = k.val + 1 → Completes .ret s fun t =>
      t.pc.toNat = s.stk[k].toNat % 4096 ∧ t.sp.val = k.val ∧ t.stk[k] = s.stk[k] ∧ t.hls[k] = 60)

/-- CALL pushes the masked return address and jumps; on the full stack it is STACK_OVERFLOW (spec/40_control.md R80; that
the pushed address is masked is the spec's decision D19). -/
def Obligations.CallPushesTheReturnAddress : Prop :=
  ∀ (s : State) (nnn : Addr),
    (s.sp.val = 16 → exec (.call nnn) s = .fault (.raised (.stackOverflow s.pc))) ∧
    (∀ k : Fin 16, s.sp.val = k.val → Completes (.call nnn) s fun t =>
      t.stk[k].toNat = (s.pc.toNat + 2) % 4096 ∧ t.sp.val = k.val + 1 ∧ t.hls[k] = 60 ∧ t.pc.toNat = nnn.toNat)

/-- A return from a callee that leaves the stack as it found it goes to the call's pc plus 2, and the stack pointer is
the one before the call (spec/40_control.md R76). -/
def Obligations.CallThenReturnGoesPastTheCall : Prop :=
  ∀ (s t u : State) (nnn : Addr), exec (.call nnn) s = .next t → u.sp = t.sp → u.stk = t.stk →
    Completes .ret u fun w => PcMoves s w 2 ∧ w.sp = s.sp

/-- R78 and R79: the jumps. -/
def Obligations.JumpsSetThePc : Prop :=
  ∀ (s : State) (nnn : Addr),
    Completes (.jp nnn) s (fun t => t.pc.toNat = nnn.toNat) ∧
    Completes (.jpV0 nnn) s (fun t => t.pc.toNat = (nnn.toNat + s.v[(0 : Reg)].toNat) % 4096)

/-- R81 and R82: the skips on an immediate. -/
def Obligations.SkipsOnAnImmediate : Prop :=
  ∀ (s : State) (x : Reg) (nn : Byte),
    Completes (.seImm x nn) s (fun t => PcMoves s t (if s.v[x] = nn then 4 else 2)) ∧
    Completes (.sneImm x nn) s (fun t => PcMoves s t (if s.v[x] = nn then 2 else 4))

/-- The skips on two registers (spec/40_control.md R83, R84); the low nibble is ignored unless STRICT_59 makes it a decode
failure, the spec's decision D5. That their words are of families 5 and 9 is its decision D2 (log 10), and that an
instruction keeps the ignored nibble is the model's choice, log 11. -/
def Obligations.SkipsOnTwoRegisters : Prop :=
  ∀ (s : State) (x y : Reg) (n : Nibble),
    Completes (.seReg x y n) s (fun t => PcMoves s t (if s.v[x] = s.v[y] then 4 else 2)) ∧
    Completes (.sneReg x y n) s (fun t => PcMoves s t (if s.v[x] = s.v[y] then 2 else 4)) ∧
    (∀ strict, IsInvalid strict (encode (.seReg x y n)) ↔ strict = true ∧ n ≠ 0) ∧
    (∀ strict, IsInvalid strict (encode (.sneReg x y n)) ↔ strict = true ∧ n ≠ 0)

/-! ### Loads, arithmetic, logic, shifts, random (spec/41_alu.md) -/

/-- R87 and R88: the loads, x = 15 and x = y included. -/
def Obligations.LoadsWriteTheRegister : Prop :=
  ∀ (s : State) (x y : Reg) (nn : Byte),
    Completes (.ldImm x nn) s (fun t => Wrote t x nn ∧ PcMoves s t 2) ∧
    Completes (.ldReg x y) s (fun t => Wrote t x s.v[y] ∧ PcMoves s t 2)

/-- R89: the sum with the immediate modulo 256, with VF untouched unless it is the destination. -/
def Obligations.AddImmediateWrapsWithoutFlag : Prop :=
  ∀ (s : State) (x : Reg) (nn : Byte), Completes (.addImm x nn) s fun t =>
    t.v[x].toNat = (s.v[x].toNat + nn.toNat) % 256 ∧ t.hlr[x] = 60 ∧ (x ≠ 15 → t.v[(15 : Reg)] = s.v[(15 : Reg)]) ∧
    PcMoves s t 2

/-- The bitwise operations, bit by bit (spec/41_alu.md R90, R151, R152); that VF is otherwise unchanged is the spec's
decision D8. -/
def Obligations.BitwiseLogicBitByBit : Prop :=
  ∀ (s : State) (x y : Reg),
    Completes (.orReg x y) s (fun t => (∀ b < 8, t.v[x].getLsbD b = (s.v[x].getLsbD b || s.v[y].getLsbD b)) ∧
      t.hlr[x] = 60 ∧ (x ≠ 15 → t.v[(15 : Reg)] = s.v[(15 : Reg)]) ∧ PcMoves s t 2) ∧
    Completes (.andReg x y) s (fun t => (∀ b < 8, t.v[x].getLsbD b = (s.v[x].getLsbD b && s.v[y].getLsbD b)) ∧
      t.hlr[x] = 60 ∧ (x ≠ 15 → t.v[(15 : Reg)] = s.v[(15 : Reg)]) ∧ PcMoves s t 2) ∧
    Completes (.xorReg x y) s (fun t => (∀ b < 8, t.v[x].getLsbD b = (s.v[x].getLsbD b ^^ s.v[y].getLsbD b)) ∧
      t.hlr[x] = 60 ∧ (x ≠ 15 → t.v[(15 : Reg)] = s.v[(15 : Reg)]) ∧ PcMoves s t 2)

/-- The sum modulo 256 to Vx, then the carry to VF (spec/41_alu.md R92); that the carry remains when x = 15 is the spec's
decision D7. -/
def Obligations.AddSetsCarry : Prop :=
  ∀ (s : State) (x y : Reg), Completes (.addReg x y) s fun t =>
    (x ≠ 15 → t.v[x].toNat = (s.v[x].toNat + s.v[y].toNat) % 256) ∧ t.hlr[x] = 60 ∧
    Wrote t 15 (if s.v[x].toNat + s.v[y].toNat > 255 then 1 else 0) ∧ PcMoves s t 2

/-- Both subtractions modulo 256, then no-borrow to VF (spec/41_alu.md R93, R94); that the flag remains when x = 15 is the
spec's decision D7. -/
def Obligations.SubtractionsSetNoBorrow : Prop :=
  ∀ (s : State) (x y : Reg),
    Completes (.sub x y) s (fun t =>
      (x ≠ 15 → (t.v[x].toNat : Int) = ((s.v[x].toNat : Int) - s.v[y].toNat) % 256) ∧ t.hlr[x] = 60 ∧
      Wrote t 15 (if s.v[x].toNat ≥ s.v[y].toNat then 1 else 0) ∧ PcMoves s t 2) ∧
    Completes (.subn x y) s (fun t =>
      (x ≠ 15 → (t.v[x].toNat : Int) = ((s.v[y].toNat : Int) - s.v[x].toNat) % 256) ∧ t.hlr[x] = 60 ∧
      Wrote t 15 (if s.v[y].toNat ≥ s.v[x].toNat then 1 else 0) ∧ PcMoves s t 2)

/-- The shifts by one, then the bit shifted out to VF; y has no effect (spec/41_alu.md R95, R96; that they shift Vx is the
spec's decision D6, that the flag remains when x = 15 its decision D7). -/
def Obligations.ShiftsSetTheBitShiftedOut : Prop :=
  ∀ (s : State) (x y : Reg),
    Completes (.shr x y) s (fun t => (x ≠ 15 → t.v[x].toNat = s.v[x].toNat / 2) ∧ t.hlr[x] = 60 ∧
      Wrote t 15 (if s.v[x].getLsbD 0 then 1 else 0) ∧ PcMoves s t 2) ∧
    Completes (.shl x y) s (fun t => (x ≠ 15 → t.v[x].toNat = s.v[x].toNat * 2 % 256) ∧ t.hlr[x] = 60 ∧
      Wrote t 15 (if s.v[x].getLsbD 7 then 1 else 0) ∧ PcMoves s t 2)

/-- The mask AND the byte drawn, which is a free value; a zero mask gives zero and a full mask the byte itself
(spec/41_alu.md R97, R98; the free draw is the spec's decision D14). That the model's counter of draws moves on is its own
choice, log 3. -/
def Obligations.RandomIsMaskedDraw : Prop :=
  ∀ (s : State) (x : Reg) (nn : Byte), Completes (.rnd x nn) s fun t =>
    Wrote t x (nn &&& Config.draw8 s.draws) ∧ (nn = 0x00 → t.v[x] = 0x00) ∧
    (nn = 0xFF → t.v[x] = Config.draw8 s.draws) ∧ t.draws = s.draws + 1 ∧ PcMoves s t 2

/-! ### Display (spec/42_display.md) -/

/-- R104: after CLS every pixel reads clear, and VF is unchanged. -/
def Obligations.ClearDisplayClearsEveryPixel : Prop :=
  ∀ s : State, Completes .cls s fun t =>
    (∀ p q : Nat, Framebuffer.getPixel t.fb p q = false) ∧ t.v[(15 : Reg)] = s.v[(15 : Reg)] ∧ PcMoves s t 2

/-- The blit's loops XOR the sprite onto its box of the torus and nothing else, and report a collision exactly when a
cell of the box that counts under COLLISION_SCOPE was set before, for both values of it (spec/42_display.md R100-R103;
the scope is the spec's decision D10). -/
def Obligations.BlitXorsItsBoxOnTheTorus : Prop :=
  ∀ (scope : CollisionScope) (m : Memory) (x y a n : Nat) (fb : Framebuffer), n ≤ 15 →
    (∀ p q : Nat, Framebuffer.getPixel (blitWith scope m x y a n fb).1 p q =
      (Framebuffer.getPixel fb p q ^^ spriteBit m x y a n p q)) ∧
    ((blitWith scope m x y a n fb).2 = true ↔ ∃ r c : Nat, r < n ∧ c < 8 ∧
      (scope = .wholeBox ∨ (Memory.read m (a + r)).getLsbD (7 - c) = true) ∧
      Framebuffer.getPixel fb (x + c) (y + r) = true)

/-- R105: DRW draws n rows from I at (Vx, Vy), all read before VF is written, puts the collision in VF and leaves I as it
was, for both values of COLLISION_SCOPE. What the blit does is `BlitXorsItsBoxOnTheTorus`. -/
def Obligations.DrawBlitsAndSetsCollision : Prop :=
  ∀ (s : State) (x y : Reg) (n : Nibble), Completes (.drw x y n) s fun t =>
    t.fb = (s.blit s.v[x].toNat s.v[y].toNat s.ireg.toNat n.toNat).1 ∧
    Wrote t 15 (if (s.blit s.v[x].toNat s.v[y].toNat s.ireg.toNat n.toNat).2 then 1 else 0) ∧
    (n = 0 → t.fb = s.fb ∧ t.v[(15 : Reg)] = 0) ∧ t.ireg = s.ireg ∧ PcMoves s t 2

/-- Drawing the same sprite at the same place a second time restores the framebuffer, and its VF is 1 exactly when some
cell of the box that counts under COLLISION_SCOPE (D10) was set after the first drawing, which is the old cell XOR the
sprite's bit; so it is 1 when the first drawing set a cell that was clear (spec/42_display.md R101 (b), from the algorithm
of R100; R107's wider sentence on the second VF does not follow from R100 where every 1 bit fell on a set cell: log 15). -/
def Obligations.DrawTwiceRestores : Prop :=
  ∀ (s t u : State) (x y : Reg) (n : Nibble), exec (.drw x y n) s = .next t →
    u.fb = t.fb → u.v[x] = s.v[x] → u.v[y] = s.v[y] → u.ireg = s.ireg →
    (∀ r < n.toNat, u.readByte (u.addrI r) = s.readByte (s.addrI r)) →
    let bit (r c : Nat) : Bool := (s.readByte (s.addrI r)).getLsbD (7 - c)
    let old (r c : Nat) : Bool := Framebuffer.getPixel s.fb (s.v[x].toNat + c) (s.v[y].toNat + r)
    Completes (.drw x y n) u fun w => w.fb = s.fb ∧
      (w.v[(15 : Reg)] = 1 ↔ ∃ r c : Nat, r < n.toNat ∧ c < 8 ∧
        (u.params.collisionScope = .wholeBox ∨ bit r c = true) ∧ (old r c ^^ bit r c) = true) ∧
      ((∃ r c : Nat, r < n.toNat ∧ c < 8 ∧ bit r c = true ∧ old r c = false) → w.v[(15 : Reg)] = 1)

/-- A draw onto an all-clear box gives VF 0 under either scope; one onto a box with a set cell gives VF 1 under WHOLE_BOX,
and under either scope when the cell lies under a 1 bit; under SET_BITS a set cell elsewhere gives VF 0 (the second and
third properties of spec/42_display.md R107, with its example; the scope is the spec's decision D10). The first clause also
settles the second of two equal draws where the first one left its box all clear (log 15). -/
def Obligations.DrawOntoAClearOrASetBox : Prop :=
  ∀ (s : State) (x y : Reg) (n : Nibble),
    let bit (r c : Nat) : Bool := (s.readByte (s.addrI r)).getLsbD (7 - c)
    let old (r c : Nat) : Bool := Framebuffer.getPixel s.fb (s.v[x].toNat + c) (s.v[y].toNat + r)
    Completes (.drw x y n) s fun t =>
      ((∀ r < n.toNat, ∀ c < 8, old r c = false) → t.v[(15 : Reg)] = 0) ∧
      (s.params.collisionScope = .wholeBox → (∃ r < n.toNat, ∃ c < 8, old r c = true) → t.v[(15 : Reg)] = 1) ∧
      ((∃ r < n.toNat, ∃ c < 8, bit r c = true ∧ old r c = true) → t.v[(15 : Reg)] = 1) ∧
      (s.params.collisionScope = .setBits → (∀ r < n.toNat, ∀ c < 8, bit r c = true → old r c = false) →
        t.v[(15 : Reg)] = 0)

/-! ### Keys and timers (spec/43_input_timers.md) -/

/-- The skips on a key: by the latch for a key number up to 15, KEY_INDEX_RANGE above (spec/43_input_timers.md R110,
R111; the fatal condition is the spec's decision D11). -/
def Obligations.SkipsOnAKey : Prop :=
  ∀ (s : State) (x : Reg),
    (∀ k : Fin 16, s.v[x].toNat = k.val →
      Completes (.skp x) s (fun t => PcMoves s t (if s.key[k] then 4 else 2)) ∧
      Completes (.sknp x) s (fun t => PcMoves s t (if s.key[k] then 2 else 4))) ∧
    (s.v[x].toNat > 15 →
      exec (.skp x) s = .fault (.raised (.keyIndexRange s.pc s.v[x])) ∧
      exec (.sknp x) s = .fault (.raised (.keyIndexRange s.pc s.v[x])))

/-- LD Vx, K reports and clears the least key down; with none down it changes nothing, the pc included
(spec/43_input_timers.md R112, the spec's decision D12). -/
def Obligations.WaitForKeyTakesTheLeast : Prop :=
  ∀ (s : State) (x : Reg),
    ((∀ k : Fin 16, s.key[k] = false) → exec (.ldVxK x) s = .next s) ∧
    (∀ k : Fin 16, s.key[k] = true → (∀ j : Fin 16, j < k → s.key[j] = false) →
      Completes (.ldVxK x) s fun t => t.v[x].toNat = k.val ∧ t.hlr[x] = 60 ∧ t.key[k] = false ∧
        (∀ j : Fin 16, j ≠ k → t.key[j] = s.key[j]) ∧ PcMoves s t 2)

/-- R113, R114, R115: reading and setting the timers. -/
def Obligations.TimerInstructionsMoveTheTimers : Prop :=
  ∀ (s : State) (x : Reg),
    Completes (.ldVxDT x) s (fun t => Wrote t x s.dt ∧ t.dt = s.dt ∧ PcMoves s t 2) ∧
    Completes (.ldDTVx x) s (fun t => t.dt = s.v[x] ∧ PcMoves s t 2) ∧
    Completes (.ldSTVx x) s (fun t => t.st = s.v[x] ∧ (t.soundActive = true ↔ s.v[x] ≠ 0) ∧ PcMoves s t 2)

/-- R116: a tick of a Running machine lowers each timer by one, stops at 0 and changes no other state. -/
def Obligations.TickCountsBothTimersDown : Prop :=
  ∀ s : State, s.status = .running →
    (transact .tick s).1.dt.toNat = s.dt.toNat - 1 ∧ (transact .tick s).1.st.toNat = s.st.toNat - 1 ∧
    { (transact .tick s).1 with dt := s.dt, st := s.st } = s

/-- Decay lowers every highlight counter by one and stops at 0 (spec/10_state.md R32, the spec's decision D22); setKey
sets one key (R36); neither changes anything else. That both also act while the status is Fatal is the model's deduction,
log 12. -/
def Obligations.DecayAndSetKeyDoTheirPart : Prop :=
  ∀ (s : State) (k : Fin 16) (b : Bool),
    (∀ i : Fin 16, (transact .decay s).1.hlr[i] = s.hlr[i] - 1 ∧ (transact .decay s).1.hls[i] = s.hls[i] - 1) ∧
    { (transact .decay s).1 with hlr := s.hlr, hls := s.hls } = s ∧
    (∀ j : Fin 16, (transact (.setKey k b) s).1.key[j] = if j = k then b else s.key[j]) ∧
    { (transact (.setKey k b) s).1 with key := s.key } = s

/-! ### Address register and memory transfers (spec/44_address_memory.md) -/

/-- LD I, nnn (spec/44_address_memory.md R119, admitted by the spec's decision D3). -/
def Obligations.LoadAddressRegister : Prop :=
  ∀ (s : State) (nnn : Addr), Completes (.ldI nnn) s fun t => t.ireg.toNat = nnn.toNat ∧ PcMoves s t 2

/-- I plus Vx modulo 65536 with no flag, and five times Vx unreduced (spec/44_address_memory.md R120, R121; that I keeps 16
bits is the spec's decision D21). -/
def Obligations.AddressRegisterArithmetic : Prop :=
  ∀ (s : State) (x : Reg),
    Completes (.addI x) s (fun t => t.ireg.toNat = (s.ireg.toNat + s.v[x].toNat) % 65536 ∧
      t.v[(15 : Reg)] = s.v[(15 : Reg)] ∧ PcMoves s t 2) ∧
    Completes (.ldF x) s (fun t => t.ireg.toNat = s.v[x].toNat * 5 ∧ PcMoves s t 2)

/-- The three decimal digits of Vx at I, I+1 and I+2, wrapping at 0xFFF (spec/44_address_memory.md R122); that I is
unchanged is the spec's decision D9. -/
def Obligations.BcdStoresTheDigits : Prop :=
  ∀ (s : State) (x : Reg), Completes (.ldB x) s fun t =>
    (t.readByte (s.addrI 0)).toNat = s.v[x].toNat / 100 ∧
    (t.readByte (s.addrI 1)).toNat = s.v[x].toNat / 10 % 10 ∧
    (t.readByte (s.addrI 2)).toNat = s.v[x].toNat % 10 ∧ t.ireg = s.ireg ∧ PcMoves s t 2

/-- V0..Vx to the bytes from I on, wrapping at 0xFFF (spec/44_address_memory.md R123); that I is unchanged is the spec's
decision D9. -/
def Obligations.BulkStoreWritesV0ToVx : Prop :=
  ∀ (s : State) (x : Reg), Completes (.ldMemRegs x) s fun t =>
    (∀ k : Reg, k ≤ x → t.readByte (s.addrI k.val) = s.v[k]) ∧ t.ireg = s.ireg ∧ PcMoves s t 2

/-- V0..Vx from the bytes from I on, wrapping at 0xFFF, registers above x untouched (spec/44_address_memory.md R124); that
I is unchanged is the spec's decision D9. -/
def Obligations.BulkLoadReadsV0ToVx : Prop :=
  ∀ (s : State) (x : Reg), Completes (.ldRegsMem x) s fun t =>
    (∀ k : Reg, k ≤ x → Wrote t k (s.readByte (s.addrI k.val))) ∧
    (∀ k : Reg, x < k → t.v[k] = s.v[k]) ∧ t.ireg = s.ireg ∧ PcMoves s t 2

/-- A bulk load over memory and I as a bulk store left them reads back the registers stored. It rests on the bulk store
leaving I unchanged, the spec's decision D9 (spec/44_address_memory.md R125; log 13). -/
def Obligations.BulkLoadReadsBackABulkStore : Prop :=
  ∀ (s t u : State) (x : Reg), exec (.ldMemRegs x) s = .next t → u.memory = t.memory → u.ireg = t.ireg →
    Completes (.ldRegsMem x) u fun w => ∀ k : Reg, k ≤ x → w.v[k] = s.v[k]

/-! ### Memory (spec/20_memory.md) -/

/-- R40 and R43: a read at any natural number is the read at it modulo 4096, and no memory instruction is fatal. -/
def Obligations.MemoryAccessWraps : Prop :=
  (∀ (m : Memory) (a : Nat), Memory.read m a = Memory.read m (a % 4096)) ∧
  (∀ (m : Memory) (a : Nat) (b : Byte), Memory.write m a b = Memory.write m (a % 4096) b) ∧
  ∀ (s : State) (x y : Reg) (n : Nibble) (r : Fault), exec (.ldB x) s ≠ .fault r ∧ exec (.ldMemRegs x) s ≠ .fault r ∧
    exec (.ldRegsMem x) s ≠ .fault r ∧ exec (.drw x y n) s ≠ .fault r

/-- R42: the 16-bit forms are big-endian with each byte address masked on its own: a read gives back the word written,
and every other byte is as before. -/
def Obligations.SixteenBitFormsAreBigEndian : Prop :=
  ∀ (m : Memory) (a : Nat) (w : Word),
    (Memory.read16 m a).toNat = (Memory.read m a).toNat * 256 + (Memory.read m (a + 1)).toNat ∧
    Memory.read16 (Memory.write16 m a w) a = w ∧
    (Memory.read (Memory.write16 m a w) a).toNat = w.toNat / 256 ∧
    ∀ b : Nat, b % 4096 ≠ a % 4096 → b % 4096 ≠ (a + 1) % 4096 →
      Memory.read (Memory.write16 m a w) b = Memory.read m b

/-- Two memories in canonical form that read alike everywhere are the same data (log 4). -/
def Obligations.CanonicalMemoriesAreDeterminedByReads : Prop :=
  ∀ m k : Memory, Memory.wf m → Memory.wf k → (∀ a < 4096, Memory.read m a = Memory.read k a) → m = k

/-! ### Frames: what each instruction leaves unchanged -/

/-- The frame of RET, JP, JP_V0, CALL, SE and SNE. That RET leaves the popped slot's value and marks just that slot is the
spec's decision D22 (spec/10_state.md R20, R31; log 13). -/
def Obligations.FrameOfControl : Prop :=
  ∀ (x y : Reg) (nn : Byte) (nnn : Addr) (n : Nibble),
    Keeps .ret (fun s => { marks := [s.sp.val - 1], sp := true }) ∧
    Keeps (.call nnn) (fun s => { slots := [s.sp.val], marks := [s.sp.val], sp := true }) ∧
    Keeps (.jp nnn) (fun _ => {}) ∧ Keeps (.jpV0 nnn) (fun _ => {}) ∧
    Keeps (.seImm x nn) (fun _ => {}) ∧ Keeps (.sneImm x nn) (fun _ => {}) ∧
    Keeps (.seReg x y n) (fun _ => {}) ∧ Keeps (.sneReg x y n) (fun _ => {})

/-- The frame of the loads, arithmetic, logic, shifts and RND. That OR, AND and XOR leave VF is the spec's decision D8
(spec/41_alu.md R91; log 13), and the counter RND changes is the model's own (log 3). -/
def Obligations.FrameOfAlu : Prop :=
  ∀ (x y : Reg) (nn : Byte),
    Keeps (.ldImm x nn) (fun _ => { regs := [x] }) ∧ Keeps (.addImm x nn) (fun _ => { regs := [x] }) ∧
    Keeps (.ldReg x y) (fun _ => { regs := [x] }) ∧ Keeps (.orReg x y) (fun _ => { regs := [x] }) ∧
    Keeps (.andReg x y) (fun _ => { regs := [x] }) ∧ Keeps (.xorReg x y) (fun _ => { regs := [x] }) ∧
    Keeps (.addReg x y) (fun _ => { regs := [x, 15] }) ∧ Keeps (.sub x y) (fun _ => { regs := [x, 15] }) ∧
    Keeps (.shr x y) (fun _ => { regs := [x, 15] }) ∧ Keeps (.subn x y) (fun _ => { regs := [x, 15] }) ∧
    Keeps (.shl x y) (fun _ => { regs := [x, 15] }) ∧ Keeps (.rnd x nn) (fun _ => { regs := [x], draws := true })

/-- The frame of CLS and DRW. -/
def Obligations.FrameOfDisplay : Prop :=
  ∀ (x y : Reg) (n : Nibble),
    Keeps .cls (fun _ => { fb := true }) ∧ Keeps (.drw x y n) (fun _ => { regs := [15], fb := true })

/-- The frame of the key and timer instructions. That LD Vx, K clears a key, the least one down and no other, and changes
nothing with none down, is the spec's decision D12 (spec/43_input_timers.md R112; log 13). -/
def Obligations.FrameOfKeysAndTimers : Prop :=
  ∀ x : Reg,
    Keeps (.skp x) (fun _ => {}) ∧ Keeps (.sknp x) (fun _ => {}) ∧
    Keeps (.ldVxK x) (fun s => { regs := [x], keys := (leastKeyDown s.key).toList.map (fun k => k.val) }) ∧
    Keeps (.ldVxDT x) (fun _ => { regs := [x] }) ∧ Keeps (.ldDTVx x) (fun _ => { dt := true }) ∧
    Keeps (.ldSTVx x) (fun _ => { st := true })

/-- The frame of the address register, BCD and bulk instructions. That BCD, the bulk store and the bulk load leave I
unchanged is the spec's decision D9 (spec/44_address_memory.md R125; log 13). -/
def Obligations.FrameOfAddressAndMemory : Prop :=
  ∀ (x : Reg) (nnn : Addr),
    Keeps (.ldI nnn) (fun _ => { ireg := true }) ∧ Keeps (.addI x) (fun _ => { ireg := true }) ∧
    Keeps (.ldF x) (fun _ => { ireg := true }) ∧ Keeps (.ldB x) (fun s => { bytes := bytesAtI s 3 }) ∧
    Keeps (.ldMemRegs x) (fun s => { bytes := bytesAtI s (x.val + 1) }) ∧
    Keeps (.ldRegsMem x) (fun _ => { regs := regsUpTo x })

/-- Whole-machine rule: a part of the state that an instruction changed was changed by one of the instructions the spec
names for it (spec/10_state.md R15, R16, R20-R24, R30, R31, spec/20_memory.md R45, spec/41_alu.md R98). That RET writes no
slot, and marks the one it pops, is the spec's decision D22 (log 13); that only LD Vx, K clears a key is its decision D12;
the draw counter (log 3) and the parameters (logs 5 and 6) are the model's own. The pc has no clause. -/
def Obligations.EachPartHasItsOwnWriters : Prop :=
  ∀ (i : Instr) (s t : State), exec i s = .next t →
    (t.memory ≠ s.memory → ∃ x, i = .ldB x ∨ i = .ldMemRegs x) ∧
    (t.fb ≠ s.fb → i = .cls ∨ ∃ x y n, i = .drw x y n) ∧
    (t.key ≠ s.key → ∃ x, i = .ldVxK x) ∧
    (t.stk ≠ s.stk → ∃ nnn, i = .call nnn) ∧
    (t.sp ≠ s.sp → i = .ret ∨ ∃ nnn, i = .call nnn) ∧
    (t.ireg ≠ s.ireg → (∃ nnn, i = .ldI nnn) ∨ ∃ x, i = .addI x ∨ i = .ldF x) ∧
    (t.dt ≠ s.dt → ∃ x, i = .ldDTVx x) ∧
    (t.st ≠ s.st → ∃ x, i = .ldSTVx x) ∧
    (∀ j : Reg, t.v[j] ≠ s.v[j] ∨ t.hlr[j] ≠ s.hlr[j] → j ∈ registersWritten i) ∧
    (t.hls ≠ s.hls → i = .ret ∨ ∃ nnn, i = .call nnn) ∧
    (t.draws ≠ s.draws → ∃ x nn, i = .rnd x nn) ∧
    t.status = s.status ∧ t.params = s.params

/-- No instruction reads the highlight counters or the sound timer: two states that differ only there step to outcomes
that differ only there (spec/10_state.md R22, R29). -/
def Obligations.OutputsNeverInfluenceAStep : Prop :=
  ∀ s t : State, withoutOutputs s = withoutOutputs t →
    seenThrough withoutOutputs (step s) = seenThrough withoutOutputs (step t)

/-! ### Reset and the invariant -/

/-- The components other than memory after any reset: pc 0x200 from the spec's source; the status Running by the spec's
decision D17; every other component zero or clear by its decision D15 (spec/10_state.md R34; log 7); the model's own draw
counter (log 3) and parameters (logs 5 and 6) kept. Memory is `ResetLoadsAnAcceptedImageOnly`. -/
def Obligations.ResetLeavesTheResetValues : Prop :=
  ∀ (s : State) (image : Option (List Byte)),
    let t := (transact (.reset image) s).1
    t.pc = 0x200 ∧ t.status = .running ∧ (∀ i : Reg, t.v[i] = 0) ∧ t.ireg = 0 ∧ t.sp = 0 ∧
    (∀ j : Fin 16, t.stk[j] = 0) ∧ t.dt = 0 ∧ t.st = 0 ∧ (∀ p q : Nat, Framebuffer.getPixel t.fb p q = false) ∧
    (∀ k : Fin 16, t.key[k] = false) ∧ (∀ i : Fin 16, t.hlr[i] = 0 ∧ t.hls[i] = 0) ∧ t.draws = s.draws ∧
    t.params = s.params

/-- The memory after a reset: an accepted image from 0x200 on, the font at 0x000..0x04F, and zeros elsewhere; an absent,
empty or oversized image copies nothing, and the result says which (spec/70_reset_and_hazards.md R140, R141; rejecting an
oversized image whole is the spec's decision D20, the font bytes are open by D16). -/
def Obligations.ResetLoadsAnAcceptedImageOnly : Prop :=
  ∀ (s : State) (image : List Byte) (a : Nat), a < 4096 →
    let blank : Byte := if a < 80 then Config.font a else 0
    let after := transact (.reset (some image)) s
    (1 ≤ image.length → image.length ≤ 3584 → after.2 = .load (.loaded image.length) ∧
      after.1.readByte a = if a < 0x200 then blank else image.getD (a - 0x200) 0) ∧
    (image.length = 0 → after.2 = .load .empty ∧ after.1.readByte a = blank) ∧
    (image.length > 3584 → after.2 = .load (.rejected image.length) ∧ after.1.readByte a = blank) ∧
    (transact (.reset none) s).2 = .load .empty ∧ (transact (.reset none) s).1.readByte a = blank

/-- The invariant holds after every reset, for all parameters. Its clause on memory is the model's own canonical form
(log 4, DESIGN CHOICE); that the stack slots and highlight counters are 0 is the spec's decision D15 (log 7). -/
def Obligations.InvariantHoldsAfterReset : Prop :=
  State.reset.Inv ∧ ∀ (p : Params) (draws : Nat) (image : Option (List Byte)), (State.resetWith p draws image).Inv

/-- Every step keeps the invariant. Its clause on memory is the model's own canonical form (log 4, DESIGN CHOICE); its
bound on the pc, and on the address CALL pushes, is the spec's decision D19 (spec/10_state.md R19; log 16). -/
def Obligations.StepKeepsTheInvariant : Prop :=
  ∀ s t : State, s.Inv → step s = .next t → t.Inv

/-- Every transaction keeps the invariant, the fatal step, the tick, decay, setKey, the reads and the reset included, from
every state that meets it. The clauses rest on what `StepKeepsTheInvariant` and `InvariantHoldsAfterReset` name; that
decay stops at 0 is the spec's decision D22, and the transactions as functions beside step are log 8. -/
def Obligations.EveryTransactionKeepsTheInvariant : Prop :=
  ∀ (e : Event) (s : State), s.Inv → (transact e s).1.Inv

/-- The invariant holds in every state that any schedule of transactions reaches from a reset. Schedules are lists of
events beside step (log 8), and the clause on memory is the model's own canonical form (log 4). The bounds on the pc and
the stack slots rest on the spec's decision D19 (log 16), the zeros they start from on D15 (log 7), the bound on the
highlight counters also on D22 (log 13). -/
def Obligations.ReachableStatesMeetTheInvariant : Prop :=
  ∀ s : State, Reachable s → s.Inv
end

