-- ==== Sys2Proof/Laws/Decode.lean ====
section
/-! SUPPORT. The fields of a word as arithmetic on its number, and the fields of the words the encoder builds. -/
namespace Sys2Proof

theorem fieldFamily_eq (op : Word) : fieldFamily op = op.toNat / 4096 := by
  simp only [fieldFamily, BitVec.extractLsb'_toNat, Nat.shiftRight_eq_div_pow]; omega

theorem fieldX_val (op : Word) : (fieldX op).val = op.toNat / 256 % 16 := by
  simp [fieldX, Nat.shiftRight_eq_div_pow]

theorem fieldY_val (op : Word) : (fieldY op).val = op.toNat / 16 % 16 := by
  simp [fieldY, Nat.shiftRight_eq_div_pow]

theorem fieldN_toNat (op : Word) : (fieldN op).toNat = op.toNat % 16 := by
  simp [fieldN]

theorem fieldNN_toNat (op : Word) : (fieldNN op).toNat = op.toNat % 256 := by
  simp [fieldNN]

theorem fieldNNN_toNat (op : Word) : (fieldNNN op).toNat = op.toNat % 4096 := by
  simp [fieldNNN]

/-! ### The encoder's words, their leading digit below 16 -/

theorem wordNNN_toNat {a : Nat} (ha : a < 16) (nnn : Addr) : (wordNNN a nnn).toNat = a * 4096 + nnn.toNat := by
  simp only [wordNNN, BitVec.toNat_ofNat]; omega

theorem wordXNN_toNat {a : Nat} (ha : a < 16) (x : Reg) (nn : Byte) :
    (wordXNN a x nn).toNat = a * 4096 + x.val * 256 + nn.toNat := by
  simp only [wordXNN, BitVec.toNat_ofNat]; omega

theorem wordXYN_toNat {a : Nat} (ha : a < 16) (x y : Reg) (n : Nibble) :
    (wordXYN a x y n).toNat = a * 4096 + x.val * 256 + y.val * 16 + n.toNat := by
  simp only [wordXYN, wordOfDigits, BitVec.toNat_ofNat]; omega

theorem fieldFamily_wordNNN {a : Nat} (ha : a < 16) (nnn : Addr) : fieldFamily (wordNNN a nnn) = a := by
  rw [fieldFamily_eq, wordNNN_toNat ha]; omega

theorem fieldNNN_wordNNN {a : Nat} (ha : a < 16) (nnn : Addr) : fieldNNN (wordNNN a nnn) = nnn := by
  apply BitVec.eq_of_toNat_eq; rw [fieldNNN_toNat, wordNNN_toNat ha]; omega

theorem fieldFamily_wordXNN {a : Nat} (ha : a < 16) (x : Reg) (nn : Byte) : fieldFamily (wordXNN a x nn) = a := by
  rw [fieldFamily_eq, wordXNN_toNat ha]; omega

theorem fieldX_wordXNN {a : Nat} (ha : a < 16) (x : Reg) (nn : Byte) : fieldX (wordXNN a x nn) = x := by
  apply Fin.ext; rw [fieldX_val, wordXNN_toNat ha]; omega

theorem fieldNN_wordXNN {a : Nat} (ha : a < 16) (x : Reg) (nn : Byte) : fieldNN (wordXNN a x nn) = nn := by
  apply BitVec.eq_of_toNat_eq; rw [fieldNN_toNat, wordXNN_toNat ha]; omega

theorem fieldFamily_wordXYN {a : Nat} (ha : a < 16) (x y : Reg) (n : Nibble) : fieldFamily (wordXYN a x y n) = a := by
  rw [fieldFamily_eq, wordXYN_toNat ha]; omega

theorem fieldX_wordXYN {a : Nat} (ha : a < 16) (x y : Reg) (n : Nibble) : fieldX (wordXYN a x y n) = x := by
  apply Fin.ext; rw [fieldX_val, wordXYN_toNat ha]; omega

theorem fieldY_wordXYN {a : Nat} (ha : a < 16) (x y : Reg) (n : Nibble) : fieldY (wordXYN a x y n) = y := by
  apply Fin.ext; rw [fieldY_val, wordXYN_toNat ha]; omega

theorem fieldN_wordXYN {a : Nat} (ha : a < 16) (x y : Reg) (n : Nibble) : fieldN (wordXYN a x y n) = n := by
  apply BitVec.eq_of_toNat_eq; rw [fieldN_toNat, wordXYN_toNat ha]; omega

end Sys2Proof
end

