-- ==== Sys2Proof/Laws/Memory.lean ====
section
/-! SUPPORT. What reading and writing memory do, and that every memory operation keeps the canonical form. -/
namespace Sys2Proof.Machine

/-! ### The list of cells -/

theorem Memory.lookup_insert (m : Memory) (a b : Nat) (v : Byte) :
    Memory.lookup (Memory.insert m a v) b = if a = b then some v else Memory.lookup m b := by
  induction m with
  | nil => simp [Memory.insert, Memory.lookup]
  | cons c m ih =>
    by_cases h1 : a < c.1
    · simp [Memory.insert, Memory.lookup, h1]
    · by_cases h2 : a = c.1
      · subst h2; simp [Memory.insert, Memory.lookup]
        by_cases h3 : c.1 = b <;> simp [h3]
      · simp only [Memory.insert, Memory.lookup, h1, h2, if_false, ih]
        by_cases h3 : c.1 = b
        · have : a ≠ b := fun h => h2 (h.trans h3.symm)
          simp [h3, this]
        · simp [h3]

theorem Memory.lookup_erase (m : Memory) (a b : Nat) :
    Memory.lookup (Memory.erase m a) b = if a = b then none else Memory.lookup m b := by
  induction m with
  | nil => simp [Memory.erase, Memory.lookup]
  | cons c m ih =>
    rw [Memory.erase, List.filter_cons] at *
    by_cases h1 : c.1 = a
    · simp only [h1, ne_eq, not_true_eq_false, decide_false, Bool.false_eq_true, if_false]
      rw [ih]
      by_cases h2 : a = b
      · simp [h2]
      · simp [Memory.lookup, h1, h2]
    · simp only [ne_eq, h1, not_false_eq_true, decide_true, if_true, Memory.lookup]
      rw [ih]
      by_cases h2 : c.1 = b
      · have : a ≠ b := fun h => h1 (h2.trans h.symm)
        simp [h2, this]
      · simp [h2]

theorem Memory.mem_insert {m : Memory} {a : Nat} {v : Byte} {c : Host.Cell} (h : c ∈ Memory.insert m a v) :
    c = (a, v) ∨ c ∈ m := by
  induction m with
  | nil => simpa [Memory.insert] using h
  | cons d m ih =>
    by_cases h1 : a < d.1
    · simpa [Memory.insert, h1] using h
    · by_cases h2 : a = d.1
      · simp only [Memory.insert, h2, lt_self_iff_false, if_false, if_true, List.mem_cons] at h
        exact h.imp (fun e => by rw [e, h2]) (List.mem_cons_of_mem d)
      · simp only [Memory.insert, h1, h2, if_false, List.mem_cons] at h
        rcases h with rfl | h
        · exact .inr List.mem_cons_self
        · exact (ih h).imp_right (List.mem_cons_of_mem d)

theorem Memory.insert_sorted {m : Memory} (h : m.Pairwise (fun c d => c.1 < d.1)) (a : Nat) (v : Byte) :
    (Memory.insert m a v).Pairwise (fun c d => c.1 < d.1) := by
  induction m with
  | nil => simp [Memory.insert]
  | cons d m ih =>
    obtain ⟨hd, hm⟩ := List.pairwise_cons.1 h
    by_cases h1 : a < d.1
    · simp only [Memory.insert, h1, if_true]
      refine List.pairwise_cons.2 ⟨fun e he => ?_, h⟩
      rcases List.mem_cons.1 he with rfl | he
      · exact h1
      · exact h1.trans (hd e he)
    · by_cases h2 : a = d.1
      · simp only [Memory.insert, h2, lt_self_iff_false, if_false, if_true]
        exact List.pairwise_cons.2 ⟨hd, hm⟩
      · simp only [Memory.insert, h1, h2, if_false]
        refine List.pairwise_cons.2 ⟨fun e he => ?_, ih hm⟩
        rcases Memory.mem_insert he with rfl | he
        · exact lt_of_le_of_ne (not_lt.1 h1) (Ne.symm h2)
        · exact hd e he

/-! ### The canonical form -/

theorem Memory.wf_nil : Memory.wf [] := by
  simp [Memory.wf]

theorem Memory.wf_write {m : Memory} (h : Memory.wf m) (a : Nat) (v : Byte) : Memory.wf (Memory.write m a v) := by
  unfold Memory.write
  split
  · exact ⟨h.1.filter _, fun c hc => h.2 c (List.mem_of_mem_filter hc)⟩
  · rename_i hv
    refine ⟨Memory.insert_sorted h.1 _ v, fun c hc => ?_⟩
    rcases Memory.mem_insert hc with rfl | hc
    · exact ⟨Nat.mod_lt a (by decide), hv⟩
    · exact h.2 c hc

theorem Memory.wf_write16 {m : Memory} (h : Memory.wf m) (a : Nat) (w : Word) : Memory.wf (Memory.write16 m a w) :=
  Memory.wf_write (Memory.wf_write h a _) _ _

theorem Memory.wf_writeBytes {m : Memory} (h : Memory.wf m) (a : Nat) (bs : List Byte) :
    Memory.wf (Memory.writeBytes m a bs) := by
  induction bs generalizing m a with
  | nil => exact h
  | cons b bs ih => exact ih (Memory.wf_write h a b) (a + 1)

theorem resetMemory_wf (image : Option (List Byte)) : Memory.wf (resetMemory image) := by
  unfold resetMemory
  split
  · exact Memory.wf_nil
  · split
    · exact Memory.wf_writeBytes Memory.wf_nil _ _
    · exact Memory.wf_nil

theorem State.reset_memory_wf : Memory.wf State.reset.memory := Memory.wf_nil

/-! ### Reading and writing -/

/-- All a write of one byte does: the address it names, modulo 4096, reads as the byte; every other reads as before. -/
theorem Memory.read_write (m : Memory) (a b : Nat) (v : Byte) :
    Memory.read (Memory.write m a v) b = if a % 4096 = b % 4096 then v else Memory.read m b := by
  unfold Memory.write Memory.read
  by_cases hv : v = Memory.unlisted (a % 4096)
  · rw [if_pos hv, Memory.lookup_erase]
    by_cases h : a % 4096 = b % 4096
    · simp [h, hv]
    · simp [h]
  · rw [if_neg hv, Memory.lookup_insert]
    by_cases h : a % 4096 = b % 4096 <;> simp [h]

theorem State.readByte_writeByte (s : State) (a b : Nat) (v : Byte) :
    (s.writeByte a v).readByte b = if a % 4096 = b % 4096 then v else s.readByte b :=
  Memory.read_write s.memory a b v

/-- A memory that lists nothing reads as its reset content. -/
theorem Memory.read_nil (a : Nat) : Memory.read [] a = Memory.unlisted (a % 4096) := rfl

end Sys2Proof.Machine
end

