-- ==== Sys2Proof/Laws/State.lean ====
section
/-! SUPPORT. One lemma per field per update of the state, so that no later proof unfolds a record update. -/
namespace Sys2Proof.Machine

/-! ### State.setV -/

@[simp] theorem State.setV_memory (s : State) (x : Reg) (b : Byte) : (s.setV x b).memory = s.memory := rfl
@[simp] theorem State.setV_v (s : State) (x : Reg) (b : Byte) : (s.setV x b).v = s.v.set x.val b x.isLt := rfl
@[simp] theorem State.setV_ireg (s : State) (x : Reg) (b : Byte) : (s.setV x b).ireg = s.ireg := rfl
@[simp] theorem State.setV_pc (s : State) (x : Reg) (b : Byte) : (s.setV x b).pc = s.pc := rfl
@[simp] theorem State.setV_stk (s : State) (x : Reg) (b : Byte) : (s.setV x b).stk = s.stk := rfl
@[simp] theorem State.setV_sp (s : State) (x : Reg) (b : Byte) : (s.setV x b).sp = s.sp := rfl
@[simp] theorem State.setV_dt (s : State) (x : Reg) (b : Byte) : (s.setV x b).dt = s.dt := rfl
@[simp] theorem State.setV_st (s : State) (x : Reg) (b : Byte) : (s.setV x b).st = s.st := rfl
@[simp] theorem State.setV_fb (s : State) (x : Reg) (b : Byte) : (s.setV x b).fb = s.fb := rfl
@[simp] theorem State.setV_key (s : State) (x : Reg) (b : Byte) : (s.setV x b).key = s.key := rfl
@[simp] theorem State.setV_hlr (s : State) (x : Reg) (b : Byte) : (s.setV x b).hlr = s.hlr.set x.val Config.hlDecay x.isLt := rfl
@[simp] theorem State.setV_hls (s : State) (x : Reg) (b : Byte) : (s.setV x b).hls = s.hls := rfl
@[simp] theorem State.setV_status (s : State) (x : Reg) (b : Byte) : (s.setV x b).status = s.status := rfl
@[simp] theorem State.setV_draws (s : State) (x : Reg) (b : Byte) : (s.setV x b).draws = s.draws := rfl
@[simp] theorem State.setV_params (s : State) (x : Reg) (b : Byte) : (s.setV x b).params = s.params := rfl

/-! ### State.setPc -/

@[simp] theorem State.setPc_memory (s : State) (t : Nat) : (s.setPc t).memory = s.memory := rfl
@[simp] theorem State.setPc_v (s : State) (t : Nat) : (s.setPc t).v = s.v := rfl
@[simp] theorem State.setPc_ireg (s : State) (t : Nat) : (s.setPc t).ireg = s.ireg := rfl
@[simp] theorem State.setPc_pc (s : State) (t : Nat) : (s.setPc t).pc = trunc12 t := rfl
@[simp] theorem State.setPc_stk (s : State) (t : Nat) : (s.setPc t).stk = s.stk := rfl
@[simp] theorem State.setPc_sp (s : State) (t : Nat) : (s.setPc t).sp = s.sp := rfl
@[simp] theorem State.setPc_dt (s : State) (t : Nat) : (s.setPc t).dt = s.dt := rfl
@[simp] theorem State.setPc_st (s : State) (t : Nat) : (s.setPc t).st = s.st := rfl
@[simp] theorem State.setPc_fb (s : State) (t : Nat) : (s.setPc t).fb = s.fb := rfl
@[simp] theorem State.setPc_key (s : State) (t : Nat) : (s.setPc t).key = s.key := rfl
@[simp] theorem State.setPc_hlr (s : State) (t : Nat) : (s.setPc t).hlr = s.hlr := rfl
@[simp] theorem State.setPc_hls (s : State) (t : Nat) : (s.setPc t).hls = s.hls := rfl
@[simp] theorem State.setPc_status (s : State) (t : Nat) : (s.setPc t).status = s.status := rfl
@[simp] theorem State.setPc_draws (s : State) (t : Nat) : (s.setPc t).draws = s.draws := rfl
@[simp] theorem State.setPc_params (s : State) (t : Nat) : (s.setPc t).params = s.params := rfl

/-! ### State.advance -/

@[simp] theorem State.advance_memory (s : State) : (s.advance).memory = s.memory := rfl
@[simp] theorem State.advance_v (s : State) : (s.advance).v = s.v := rfl
@[simp] theorem State.advance_ireg (s : State) : (s.advance).ireg = s.ireg := rfl
@[simp] theorem State.advance_pc (s : State) : (s.advance).pc = trunc12 (s.pc.toNat + 2) := rfl
@[simp] theorem State.advance_stk (s : State) : (s.advance).stk = s.stk := rfl
@[simp] theorem State.advance_sp (s : State) : (s.advance).sp = s.sp := rfl
@[simp] theorem State.advance_dt (s : State) : (s.advance).dt = s.dt := rfl
@[simp] theorem State.advance_st (s : State) : (s.advance).st = s.st := rfl
@[simp] theorem State.advance_fb (s : State) : (s.advance).fb = s.fb := rfl
@[simp] theorem State.advance_key (s : State) : (s.advance).key = s.key := rfl
@[simp] theorem State.advance_hlr (s : State) : (s.advance).hlr = s.hlr := rfl
@[simp] theorem State.advance_hls (s : State) : (s.advance).hls = s.hls := rfl
@[simp] theorem State.advance_status (s : State) : (s.advance).status = s.status := rfl
@[simp] theorem State.advance_draws (s : State) : (s.advance).draws = s.draws := rfl
@[simp] theorem State.advance_params (s : State) : (s.advance).params = s.params := rfl

/-! ### State.writeByte -/

@[simp] theorem State.writeByte_memory (s : State) (a : Nat) (b : Byte) : (s.writeByte a b).memory = Memory.write s.memory a b := rfl
@[simp] theorem State.writeByte_v (s : State) (a : Nat) (b : Byte) : (s.writeByte a b).v = s.v := rfl
@[simp] theorem State.writeByte_ireg (s : State) (a : Nat) (b : Byte) : (s.writeByte a b).ireg = s.ireg := rfl
@[simp] theorem State.writeByte_pc (s : State) (a : Nat) (b : Byte) : (s.writeByte a b).pc = s.pc := rfl
@[simp] theorem State.writeByte_stk (s : State) (a : Nat) (b : Byte) : (s.writeByte a b).stk = s.stk := rfl
@[simp] theorem State.writeByte_sp (s : State) (a : Nat) (b : Byte) : (s.writeByte a b).sp = s.sp := rfl
@[simp] theorem State.writeByte_dt (s : State) (a : Nat) (b : Byte) : (s.writeByte a b).dt = s.dt := rfl
@[simp] theorem State.writeByte_st (s : State) (a : Nat) (b : Byte) : (s.writeByte a b).st = s.st := rfl
@[simp] theorem State.writeByte_fb (s : State) (a : Nat) (b : Byte) : (s.writeByte a b).fb = s.fb := rfl
@[simp] theorem State.writeByte_key (s : State) (a : Nat) (b : Byte) : (s.writeByte a b).key = s.key := rfl
@[simp] theorem State.writeByte_hlr (s : State) (a : Nat) (b : Byte) : (s.writeByte a b).hlr = s.hlr := rfl
@[simp] theorem State.writeByte_hls (s : State) (a : Nat) (b : Byte) : (s.writeByte a b).hls = s.hls := rfl
@[simp] theorem State.writeByte_status (s : State) (a : Nat) (b : Byte) : (s.writeByte a b).status = s.status := rfl
@[simp] theorem State.writeByte_draws (s : State) (a : Nat) (b : Byte) : (s.writeByte a b).draws = s.draws := rfl
@[simp] theorem State.writeByte_params (s : State) (a : Nat) (b : Byte) : (s.writeByte a b).params = s.params := rfl

/-! ### State.enterFatal -/

@[simp] theorem State.enterFatal_memory (s : State) (c : Fatal) : (s.enterFatal c).memory = s.memory := rfl
@[simp] theorem State.enterFatal_v (s : State) (c : Fatal) : (s.enterFatal c).v = s.v := rfl
@[simp] theorem State.enterFatal_ireg (s : State) (c : Fatal) : (s.enterFatal c).ireg = s.ireg := rfl
@[simp] theorem State.enterFatal_pc (s : State) (c : Fatal) : (s.enterFatal c).pc = s.pc := rfl
@[simp] theorem State.enterFatal_stk (s : State) (c : Fatal) : (s.enterFatal c).stk = s.stk := rfl
@[simp] theorem State.enterFatal_sp (s : State) (c : Fatal) : (s.enterFatal c).sp = s.sp := rfl
@[simp] theorem State.enterFatal_dt (s : State) (c : Fatal) : (s.enterFatal c).dt = s.dt := rfl
@[simp] theorem State.enterFatal_st (s : State) (c : Fatal) : (s.enterFatal c).st = s.st := rfl
@[simp] theorem State.enterFatal_fb (s : State) (c : Fatal) : (s.enterFatal c).fb = s.fb := rfl
@[simp] theorem State.enterFatal_key (s : State) (c : Fatal) : (s.enterFatal c).key = s.key := rfl
@[simp] theorem State.enterFatal_hlr (s : State) (c : Fatal) : (s.enterFatal c).hlr = s.hlr := rfl
@[simp] theorem State.enterFatal_hls (s : State) (c : Fatal) : (s.enterFatal c).hls = s.hls := rfl
@[simp] theorem State.enterFatal_status (s : State) (c : Fatal) : (s.enterFatal c).status = .fatal c := rfl
@[simp] theorem State.enterFatal_draws (s : State) (c : Fatal) : (s.enterFatal c).draws = s.draws := rfl
@[simp] theorem State.enterFatal_params (s : State) (c : Fatal) : (s.enterFatal c).params = s.params := rfl

/-! ### State.tick -/

@[simp] theorem State.tick_memory (s : State) : (s.tick).memory = s.memory := rfl
@[simp] theorem State.tick_v (s : State) : (s.tick).v = s.v := rfl
@[simp] theorem State.tick_ireg (s : State) : (s.tick).ireg = s.ireg := rfl
@[simp] theorem State.tick_pc (s : State) : (s.tick).pc = s.pc := rfl
@[simp] theorem State.tick_stk (s : State) : (s.tick).stk = s.stk := rfl
@[simp] theorem State.tick_sp (s : State) : (s.tick).sp = s.sp := rfl
@[simp] theorem State.tick_dt (s : State) : (s.tick).dt = countDown s.dt := rfl
@[simp] theorem State.tick_st (s : State) : (s.tick).st = countDown s.st := rfl
@[simp] theorem State.tick_fb (s : State) : (s.tick).fb = s.fb := rfl
@[simp] theorem State.tick_key (s : State) : (s.tick).key = s.key := rfl
@[simp] theorem State.tick_hlr (s : State) : (s.tick).hlr = s.hlr := rfl
@[simp] theorem State.tick_hls (s : State) : (s.tick).hls = s.hls := rfl
@[simp] theorem State.tick_status (s : State) : (s.tick).status = s.status := rfl
@[simp] theorem State.tick_draws (s : State) : (s.tick).draws = s.draws := rfl
@[simp] theorem State.tick_params (s : State) : (s.tick).params = s.params := rfl

/-! ### State.decay -/

@[simp] theorem State.decay_memory (s : State) : (s.decay).memory = s.memory := rfl
@[simp] theorem State.decay_v (s : State) : (s.decay).v = s.v := rfl
@[simp] theorem State.decay_ireg (s : State) : (s.decay).ireg = s.ireg := rfl
@[simp] theorem State.decay_pc (s : State) : (s.decay).pc = s.pc := rfl
@[simp] theorem State.decay_stk (s : State) : (s.decay).stk = s.stk := rfl
@[simp] theorem State.decay_sp (s : State) : (s.decay).sp = s.sp := rfl
@[simp] theorem State.decay_dt (s : State) : (s.decay).dt = s.dt := rfl
@[simp] theorem State.decay_st (s : State) : (s.decay).st = s.st := rfl
@[simp] theorem State.decay_fb (s : State) : (s.decay).fb = s.fb := rfl
@[simp] theorem State.decay_key (s : State) : (s.decay).key = s.key := rfl
@[simp] theorem State.decay_hlr (s : State) : (s.decay).hlr = decayed s.hlr := rfl
@[simp] theorem State.decay_hls (s : State) : (s.decay).hls = decayed s.hls := rfl
@[simp] theorem State.decay_status (s : State) : (s.decay).status = s.status := rfl
@[simp] theorem State.decay_draws (s : State) : (s.decay).draws = s.draws := rfl
@[simp] theorem State.decay_params (s : State) : (s.decay).params = s.params := rfl

/-! ### State.setKey -/

@[simp] theorem State.setKey_memory (s : State) (k : Fin 16) (b : Bool) : (s.setKey k b).memory = s.memory := rfl
@[simp] theorem State.setKey_v (s : State) (k : Fin 16) (b : Bool) : (s.setKey k b).v = s.v := rfl
@[simp] theorem State.setKey_ireg (s : State) (k : Fin 16) (b : Bool) : (s.setKey k b).ireg = s.ireg := rfl
@[simp] theorem State.setKey_pc (s : State) (k : Fin 16) (b : Bool) : (s.setKey k b).pc = s.pc := rfl
@[simp] theorem State.setKey_stk (s : State) (k : Fin 16) (b : Bool) : (s.setKey k b).stk = s.stk := rfl
@[simp] theorem State.setKey_sp (s : State) (k : Fin 16) (b : Bool) : (s.setKey k b).sp = s.sp := rfl
@[simp] theorem State.setKey_dt (s : State) (k : Fin 16) (b : Bool) : (s.setKey k b).dt = s.dt := rfl
@[simp] theorem State.setKey_st (s : State) (k : Fin 16) (b : Bool) : (s.setKey k b).st = s.st := rfl
@[simp] theorem State.setKey_fb (s : State) (k : Fin 16) (b : Bool) : (s.setKey k b).fb = s.fb := rfl
@[simp] theorem State.setKey_key (s : State) (k : Fin 16) (b : Bool) : (s.setKey k b).key = s.key.set k.val b k.isLt := rfl
@[simp] theorem State.setKey_hlr (s : State) (k : Fin 16) (b : Bool) : (s.setKey k b).hlr = s.hlr := rfl
@[simp] theorem State.setKey_hls (s : State) (k : Fin 16) (b : Bool) : (s.setKey k b).hls = s.hls := rfl
@[simp] theorem State.setKey_status (s : State) (k : Fin 16) (b : Bool) : (s.setKey k b).status = s.status := rfl
@[simp] theorem State.setKey_draws (s : State) (k : Fin 16) (b : Bool) : (s.setKey k b).draws = s.draws := rfl
@[simp] theorem State.setKey_params (s : State) (k : Fin 16) (b : Bool) : (s.setKey k b).params = s.params := rfl

/-! ### State.placeWord -/

@[simp] theorem State.placeWord_memory (s : State) (bs : List Byte) : (s.placeWord bs).memory = Memory.writeBytes s.memory s.pc.toNat bs := rfl
@[simp] theorem State.placeWord_v (s : State) (bs : List Byte) : (s.placeWord bs).v = s.v := rfl
@[simp] theorem State.placeWord_ireg (s : State) (bs : List Byte) : (s.placeWord bs).ireg = s.ireg := rfl
@[simp] theorem State.placeWord_pc (s : State) (bs : List Byte) : (s.placeWord bs).pc = s.pc := rfl
@[simp] theorem State.placeWord_stk (s : State) (bs : List Byte) : (s.placeWord bs).stk = s.stk := rfl
@[simp] theorem State.placeWord_sp (s : State) (bs : List Byte) : (s.placeWord bs).sp = s.sp := rfl
@[simp] theorem State.placeWord_dt (s : State) (bs : List Byte) : (s.placeWord bs).dt = s.dt := rfl
@[simp] theorem State.placeWord_st (s : State) (bs : List Byte) : (s.placeWord bs).st = s.st := rfl
@[simp] theorem State.placeWord_fb (s : State) (bs : List Byte) : (s.placeWord bs).fb = s.fb := rfl
@[simp] theorem State.placeWord_key (s : State) (bs : List Byte) : (s.placeWord bs).key = s.key := rfl
@[simp] theorem State.placeWord_hlr (s : State) (bs : List Byte) : (s.placeWord bs).hlr = s.hlr := rfl
@[simp] theorem State.placeWord_hls (s : State) (bs : List Byte) : (s.placeWord bs).hls = s.hls := rfl
@[simp] theorem State.placeWord_status (s : State) (bs : List Byte) : (s.placeWord bs).status = s.status := rfl
@[simp] theorem State.placeWord_draws (s : State) (bs : List Byte) : (s.placeWord bs).draws = s.draws := rfl
@[simp] theorem State.placeWord_params (s : State) (bs : List Byte) : (s.placeWord bs).params = s.params := rfl

/-! ### State.setVThenFlag -/

@[simp] theorem State.setVThenFlag_memory (s : State) (x : Reg) (r f : Byte) : (s.setVThenFlag x r f).memory = s.memory := rfl
@[simp] theorem State.setVThenFlag_v (s : State) (x : Reg) (r f : Byte) : (s.setVThenFlag x r f).v = (s.v.set x.val r x.isLt).set 15 f (by decide) := rfl
@[simp] theorem State.setVThenFlag_ireg (s : State) (x : Reg) (r f : Byte) : (s.setVThenFlag x r f).ireg = s.ireg := rfl
@[simp] theorem State.setVThenFlag_pc (s : State) (x : Reg) (r f : Byte) : (s.setVThenFlag x r f).pc = s.pc := rfl
@[simp] theorem State.setVThenFlag_stk (s : State) (x : Reg) (r f : Byte) : (s.setVThenFlag x r f).stk = s.stk := rfl
@[simp] theorem State.setVThenFlag_sp (s : State) (x : Reg) (r f : Byte) : (s.setVThenFlag x r f).sp = s.sp := rfl
@[simp] theorem State.setVThenFlag_dt (s : State) (x : Reg) (r f : Byte) : (s.setVThenFlag x r f).dt = s.dt := rfl
@[simp] theorem State.setVThenFlag_st (s : State) (x : Reg) (r f : Byte) : (s.setVThenFlag x r f).st = s.st := rfl
@[simp] theorem State.setVThenFlag_fb (s : State) (x : Reg) (r f : Byte) : (s.setVThenFlag x r f).fb = s.fb := rfl
@[simp] theorem State.setVThenFlag_key (s : State) (x : Reg) (r f : Byte) : (s.setVThenFlag x r f).key = s.key := rfl
@[simp] theorem State.setVThenFlag_hlr (s : State) (x : Reg) (r f : Byte) : (s.setVThenFlag x r f).hlr = (s.hlr.set x.val Config.hlDecay x.isLt).set 15 Config.hlDecay (by decide) := rfl
@[simp] theorem State.setVThenFlag_hls (s : State) (x : Reg) (r f : Byte) : (s.setVThenFlag x r f).hls = s.hls := rfl
@[simp] theorem State.setVThenFlag_status (s : State) (x : Reg) (r f : Byte) : (s.setVThenFlag x r f).status = s.status := rfl
@[simp] theorem State.setVThenFlag_draws (s : State) (x : Reg) (r f : Byte) : (s.setVThenFlag x r f).draws = s.draws := rfl
@[simp] theorem State.setVThenFlag_params (s : State) (x : Reg) (r f : Byte) : (s.setVThenFlag x r f).params = s.params := rfl

/-! ### State.skip -/

@[simp] theorem State.skip_memory (s : State) (c : Bool) : (s.skip c).memory = s.memory := by cases c <;> rfl
@[simp] theorem State.skip_v (s : State) (c : Bool) : (s.skip c).v = s.v := by cases c <;> rfl
@[simp] theorem State.skip_ireg (s : State) (c : Bool) : (s.skip c).ireg = s.ireg := by cases c <;> rfl
@[simp] theorem State.skip_pc (s : State) (c : Bool) : (s.skip c).pc = trunc12 (s.pc.toNat + if c then 4 else 2) := by
  cases c <;> rfl
@[simp] theorem State.skip_stk (s : State) (c : Bool) : (s.skip c).stk = s.stk := by cases c <;> rfl
@[simp] theorem State.skip_sp (s : State) (c : Bool) : (s.skip c).sp = s.sp := by cases c <;> rfl
@[simp] theorem State.skip_dt (s : State) (c : Bool) : (s.skip c).dt = s.dt := by cases c <;> rfl
@[simp] theorem State.skip_st (s : State) (c : Bool) : (s.skip c).st = s.st := by cases c <;> rfl
@[simp] theorem State.skip_fb (s : State) (c : Bool) : (s.skip c).fb = s.fb := by cases c <;> rfl
@[simp] theorem State.skip_key (s : State) (c : Bool) : (s.skip c).key = s.key := by cases c <;> rfl
@[simp] theorem State.skip_hlr (s : State) (c : Bool) : (s.skip c).hlr = s.hlr := by cases c <;> rfl
@[simp] theorem State.skip_hls (s : State) (c : Bool) : (s.skip c).hls = s.hls := by cases c <;> rfl
@[simp] theorem State.skip_status (s : State) (c : Bool) : (s.skip c).status = s.status := by cases c <;> rfl
@[simp] theorem State.skip_draws (s : State) (c : Bool) : (s.skip c).draws = s.draws := by cases c <;> rfl
@[simp] theorem State.skip_params (s : State) (c : Bool) : (s.skip c).params = s.params := by cases c <;> rfl

/-! ### State.draw8 -/

@[simp] theorem State.draw8_fst (s : State) : s.draw8.1 = Config.draw8 s.draws := rfl
@[simp] theorem State.draw8_memory (s : State) : (s.draw8.2).memory = s.memory := rfl
@[simp] theorem State.draw8_v (s : State) : (s.draw8.2).v = s.v := rfl
@[simp] theorem State.draw8_ireg (s : State) : (s.draw8.2).ireg = s.ireg := rfl
@[simp] theorem State.draw8_pc (s : State) : (s.draw8.2).pc = s.pc := rfl
@[simp] theorem State.draw8_stk (s : State) : (s.draw8.2).stk = s.stk := rfl
@[simp] theorem State.draw8_sp (s : State) : (s.draw8.2).sp = s.sp := rfl
@[simp] theorem State.draw8_dt (s : State) : (s.draw8.2).dt = s.dt := rfl
@[simp] theorem State.draw8_st (s : State) : (s.draw8.2).st = s.st := rfl
@[simp] theorem State.draw8_fb (s : State) : (s.draw8.2).fb = s.fb := rfl
@[simp] theorem State.draw8_key (s : State) : (s.draw8.2).key = s.key := rfl
@[simp] theorem State.draw8_hlr (s : State) : (s.draw8.2).hlr = s.hlr := rfl
@[simp] theorem State.draw8_hls (s : State) : (s.draw8.2).hls = s.hls := rfl
@[simp] theorem State.draw8_status (s : State) : (s.draw8.2).status = s.status := rfl
@[simp] theorem State.draw8_draws (s : State) : (s.draw8.2).draws = s.draws + 1 := rfl
@[simp] theorem State.draw8_params (s : State) : (s.draw8.2).params = s.params := rfl

end Sys2Proof.Machine
end

