-- ==== Sys2Proof/Laws/Ops.lean ====
section
/-! SUPPORT. One lemma for each shared operation that says all it can do; proofs cite it instead of unfolding the
operation. -/
namespace Sys2Proof.Machine

/-! ### Parameters the spec fixes -/

theorem hlDecay_eq : Config.hlDecay = 60 := rfl

theorem imageBase_eq : Config.imageBase = 0x200 := rfl

theorem imageMax_eq : Config.imageMax = 3584 := rfl

theorem fontBytes_eq : Config.fontBytes = 80 := rfl

/-! ### Truncations -/

@[simp] theorem trunc12_toNat (t : Nat) : (trunc12 t).toNat = t % 4096 := by
  simp [trunc12]; omega

@[simp] theorem trunc8_toNat (t : Nat) : (trunc8 t).toNat = t % 256 := by
  simp [trunc8]

@[simp] theorem trunc16_toNat (t : Nat) : (trunc16 t).toNat = t % 65536 := by
  simp [trunc16]

theorem wordOfBytes_toNat (hi lo : Byte) : (wordOfBytes hi lo).toNat = hi.toNat * 256 + lo.toNat := by
  simp only [wordOfBytes, BitVec.toNat_ofNat]; omega

theorem wordOfBytes_high_low (w : Word) : wordOfBytes (highByte w) (lowByte w) = w := by
  apply BitVec.eq_of_toNat_eq
  rw [wordOfBytes_toNat]
  simp only [highByte, lowByte, BitVec.toNat_ofNat]
  omega

/-! ### General registers -/

@[simp] theorem State.setV_getElem_v (s : State) (x j : Reg) (b : Byte) :
    (s.setV x b).v[j] = if x = j then b else s.v[j] := by
  simp [Vector.getElem_set, Fin.ext_iff]

@[simp] theorem State.setV_getElem_hlr (s : State) (x j : Reg) (b : Byte) :
    (s.setV x b).hlr[j] = if x = j then Config.hlDecay else s.hlr[j] := by
  simp [Vector.getElem_set, Fin.ext_iff]

/-- After a result and a flag, VF holds the flag, and Vx the result if it is not VF. -/
theorem State.setVThenFlag_getElem_v (s : State) (x j : Reg) (r f : Byte) :
    (s.setVThenFlag x r f).v[j] = if vf = j then f else if x = j then r else s.v[j] := by
  simp only [State.setVThenFlag, State.setV_getElem_v]

theorem State.setVThenFlag_getElem_hlr (s : State) (x j : Reg) (r f : Byte) :
    (s.setVThenFlag x r f).hlr[j] = if vf = j ∨ x = j then Config.hlDecay else s.hlr[j] := by
  simp only [State.setVThenFlag, State.setV_getElem_hlr]
  by_cases h : vf = j <;> simp [h]

@[simp] theorem mem_regsUpTo (x k : Reg) : k ∈ regsUpTo x ↔ k ≤ x := by
  simp [regsUpTo]

/-! ### Call stack -/

/-- All a push does. -/
theorem State.push_cases (s : State) (w : Word) :
    (s.sp.val = 16 ∧ s.push w = .error (.stackOverflow s.pc)) ∨
    (∃ h : s.sp.val < 16, s.push w = .ok { s with
      stk := s.stk.set s.sp.val w h, hls := s.hls.set s.sp.val Config.hlDecay h,
      sp := ⟨s.sp.val + 1, Nat.succ_lt_succ h⟩ }) := by
  by_cases h : s.sp.val < 16
  · exact .inr ⟨h, by simp [State.push, h]⟩
  · have := s.sp.isLt
    exact .inl ⟨by omega, by simp [State.push, h]⟩

/-- All a pop does. -/
theorem State.pop_cases (s : State) :
    (s.sp.val = 0 ∧ s.pop = .error (.stackUnderflow s.pc)) ∨
    (∃ (k : Nat) (h : k < 16), s.sp.val = k + 1 ∧ s.pop = .ok (s.stk[k], { s with
      hls := s.hls.set k Config.hlDecay h, sp := ⟨k, Nat.lt_succ_of_lt h⟩ })) := by
  unfold State.pop
  split
  · rename_i h; exact .inl ⟨by rw [h], rfl⟩
  · rename_i k hk h; exact .inr ⟨k, Nat.lt_of_succ_lt_succ hk, by rw [h], rfl⟩

/-! ### Keys -/

/-- All the key operand can be. -/
theorem State.opKey_cases (s : State) (x : Reg) :
    ((s.getV x).toNat > 15 ∧ s.opKey x = .error (.keyIndexRange s.pc (s.getV x))) ∨
    (∃ h : (s.getV x).toNat < 16, s.opKey x = .ok ⟨(s.getV x).toNat, h⟩) := by
  by_cases h : (s.getV x).toNat < 16
  · exact .inr ⟨h, by simp [State.opKey, h]⟩
  · exact .inl ⟨by omega, by simp [State.opKey, h]⟩

theorem leastKeyDown_eq_none (key : Vector Bool 16) : leastKeyDown key = none ↔ ∀ k : Fin 16, key[k] = false := by
  simp [leastKeyDown]

/-! ### Framebuffer -/

theorem Framebuffer.getPixel_setPixel (fb : Framebuffer) (x y p q : Nat) (b : Bool) :
    Framebuffer.getPixel (Framebuffer.setPixel fb x y b) p q =
      if x % 64 = p % 64 ∧ y % 32 = q % 32 then b else Framebuffer.getPixel fb p q := by
  unfold Framebuffer.getPixel Framebuffer.setPixel
  simp only [Vector.getElem_set]
  by_cases hx : x % 64 = p % 64
  · by_cases hy : y % 32 = q % 32 <;> simp [hx, hy]
  · simp [hx]

theorem blitCell_getPixel (scope : CollisionScope) (x y p q : Nat) (b : Bool) (acc : Framebuffer × Bool) :
    Framebuffer.getPixel (blitCell scope x y b acc).1 p q =
      if x % 64 = p % 64 ∧ y % 32 = q % 32 then (Framebuffer.getPixel acc.1 x y ^^ b)
      else Framebuffer.getPixel acc.1 p q :=
  Framebuffer.getPixel_setPixel ..

theorem blitCell_collided (scope : CollisionScope) (x y : Nat) (b : Bool) (acc : Framebuffer × Bool) :
    (blitCell scope x y b acc).2 =
      (acc.2 || ((scope == .wholeBox || b) && Framebuffer.getPixel acc.1 x y)) := rfl

/-! ### Timers and highlight counters -/

theorem countDown_toNat (t : Byte) : (countDown t).toNat = t.toNat - 1 := by
  unfold countDown
  have := t.isLt
  split
  · simp only [BitVec.toNat_ofNat]; omega
  · omega

@[simp] theorem decayed_getElem (hl : Vector Nat 16) (i : Fin 16) : (decayed hl)[i] = hl[i] - 1 := by
  simp [decayed]

end Sys2Proof.Machine
end

