-- ==== Sys2Proof/Laws/PerInstr.lean ====
section
/-! SUPPORT. For every instruction: its encoding lies in its row of spec/opcode_table.json. -/
namespace Sys2Proof.Laws.TableRow

/-- A row's fixed bits: the family digit, and the value of the word modulo `modulus` (1 where no low bit is fixed). -/
structure Row where
  family : Nat
  modulus : Nat
  low : Nat
deriving DecidableEq, Repr

/-- The fixed bits of each instruction's row (the match and mask columns of spec/opcode_table.json). -/
def row : Instr → Row
  | .cls => ⟨0x0, 4096, 0xE0⟩
  | .ret => ⟨0x0, 4096, 0xEE⟩
  | .jp _ => ⟨0x1, 1, 0x0⟩
  | .call _ => ⟨0x2, 1, 0x0⟩
  | .seImm _ _ => ⟨0x3, 1, 0x0⟩
  | .sneImm _ _ => ⟨0x4, 1, 0x0⟩
  | .seReg _ _ _ => ⟨0x5, 1, 0x0⟩
  | .ldImm _ _ => ⟨0x6, 1, 0x0⟩
  | .addImm _ _ => ⟨0x7, 1, 0x0⟩
  | .ldReg _ _ => ⟨0x8, 16, 0x0⟩
  | .orReg _ _ => ⟨0x8, 16, 0x1⟩
  | .andReg _ _ => ⟨0x8, 16, 0x2⟩
  | .xorReg _ _ => ⟨0x8, 16, 0x3⟩
  | .addReg _ _ => ⟨0x8, 16, 0x4⟩
  | .sub _ _ => ⟨0x8, 16, 0x5⟩
  | .shr _ _ => ⟨0x8, 16, 0x6⟩
  | .subn _ _ => ⟨0x8, 16, 0x7⟩
  | .shl _ _ => ⟨0x8, 16, 0xE⟩
  | .sneReg _ _ _ => ⟨0x9, 1, 0x0⟩
  | .ldI _ => ⟨0xA, 1, 0x0⟩
  | .jpV0 _ => ⟨0xB, 1, 0x0⟩
  | .rnd _ _ => ⟨0xC, 1, 0x0⟩
  | .drw _ _ _ => ⟨0xD, 1, 0x0⟩
  | .skp _ => ⟨0xE, 256, 0x9E⟩
  | .sknp _ => ⟨0xE, 256, 0xA1⟩
  | .ldVxDT _ => ⟨0xF, 256, 0x7⟩
  | .ldVxK _ => ⟨0xF, 256, 0xA⟩
  | .ldDTVx _ => ⟨0xF, 256, 0x15⟩
  | .ldSTVx _ => ⟨0xF, 256, 0x18⟩
  | .addI _ => ⟨0xF, 256, 0x1E⟩
  | .ldF _ => ⟨0xF, 256, 0x29⟩
  | .ldB _ => ⟨0xF, 256, 0x33⟩
  | .ldMemRegs _ => ⟨0xF, 256, 0x55⟩
  | .ldRegsMem _ => ⟨0xF, 256, 0x65⟩

/-- The instruction's encoding has its row's fixed bits. -/
def Statement (i : Instr) : Prop :=
  (encode i).toNat / 4096 = (row i).family ∧ (encode i).toNat % (row i).modulus = (row i).low

theorem of_wordNNN {a : Nat} (ha : a < 16) (nnn : Addr) :
    (wordNNN a nnn).toNat / 4096 = a ∧ (wordNNN a nnn).toNat % 1 = 0 := by
  rw [wordNNN_toNat ha]; omega

theorem of_wordXNN {a : Nat} (ha : a < 16) (x : Reg) (nn : Byte) :
    (wordXNN a x nn).toNat / 4096 = a ∧ (wordXNN a x nn).toNat % 256 = nn.toNat := by
  rw [wordXNN_toNat ha]; omega

theorem of_wordXYN {a : Nat} (ha : a < 16) (x y : Reg) (n : Nibble) :
    (wordXYN a x y n).toNat / 4096 = a ∧ (wordXYN a x y n).toNat % 16 = n.toNat := by
  rw [wordXYN_toNat ha]; omega

theorem cls : Statement .cls := ⟨rfl, rfl⟩
theorem ret : Statement .ret := ⟨rfl, rfl⟩
theorem jp (nnn : Addr) : Statement (.jp nnn) := of_wordNNN (by decide) nnn
theorem call (nnn : Addr) : Statement (.call nnn) := of_wordNNN (by decide) nnn
theorem seImm (x : Reg) (nn : Byte) : Statement (.seImm x nn) := ⟨(of_wordXNN (by decide) x nn).1, Nat.mod_one _⟩
theorem sneImm (x : Reg) (nn : Byte) : Statement (.sneImm x nn) := ⟨(of_wordXNN (by decide) x nn).1, Nat.mod_one _⟩
theorem seReg (x y : Reg) (n : Nibble) : Statement (.seReg x y n) := ⟨(of_wordXYN (by decide) x y n).1, Nat.mod_one _⟩
theorem ldImm (x : Reg) (nn : Byte) : Statement (.ldImm x nn) := ⟨(of_wordXNN (by decide) x nn).1, Nat.mod_one _⟩
theorem addImm (x : Reg) (nn : Byte) : Statement (.addImm x nn) := ⟨(of_wordXNN (by decide) x nn).1, Nat.mod_one _⟩
theorem ldReg (x y : Reg) : Statement (.ldReg x y) := of_wordXYN (by decide) x y 0x0
theorem orReg (x y : Reg) : Statement (.orReg x y) := of_wordXYN (by decide) x y 0x1
theorem andReg (x y : Reg) : Statement (.andReg x y) := of_wordXYN (by decide) x y 0x2
theorem xorReg (x y : Reg) : Statement (.xorReg x y) := of_wordXYN (by decide) x y 0x3
theorem addReg (x y : Reg) : Statement (.addReg x y) := of_wordXYN (by decide) x y 0x4
theorem sub (x y : Reg) : Statement (.sub x y) := of_wordXYN (by decide) x y 0x5
theorem shr (x y : Reg) : Statement (.shr x y) := of_wordXYN (by decide) x y 0x6
theorem subn (x y : Reg) : Statement (.subn x y) := of_wordXYN (by decide) x y 0x7
theorem shl (x y : Reg) : Statement (.shl x y) := of_wordXYN (by decide) x y 0xE
theorem sneReg (x y : Reg) (n : Nibble) : Statement (.sneReg x y n) := ⟨(of_wordXYN (by decide) x y n).1, Nat.mod_one _⟩
theorem ldI (nnn : Addr) : Statement (.ldI nnn) := of_wordNNN (by decide) nnn
theorem jpV0 (nnn : Addr) : Statement (.jpV0 nnn) := of_wordNNN (by decide) nnn
theorem rnd (x : Reg) (nn : Byte) : Statement (.rnd x nn) := ⟨(of_wordXNN (by decide) x nn).1, Nat.mod_one _⟩
theorem drw (x y : Reg) (n : Nibble) : Statement (.drw x y n) := ⟨(of_wordXYN (by decide) x y n).1, Nat.mod_one _⟩
theorem skp (x : Reg) : Statement (.skp x) := of_wordXNN (by decide) x 0x9E
theorem sknp (x : Reg) : Statement (.sknp x) := of_wordXNN (by decide) x 0xA1
theorem ldVxDT (x : Reg) : Statement (.ldVxDT x) := of_wordXNN (by decide) x 0x07
theorem ldVxK (x : Reg) : Statement (.ldVxK x) := of_wordXNN (by decide) x 0x0A
theorem ldDTVx (x : Reg) : Statement (.ldDTVx x) := of_wordXNN (by decide) x 0x15
theorem ldSTVx (x : Reg) : Statement (.ldSTVx x) := of_wordXNN (by decide) x 0x18
theorem addI (x : Reg) : Statement (.addI x) := of_wordXNN (by decide) x 0x1E
theorem ldF (x : Reg) : Statement (.ldF x) := of_wordXNN (by decide) x 0x29
theorem ldB (x : Reg) : Statement (.ldB x) := of_wordXNN (by decide) x 0x33
theorem ldMemRegs (x : Reg) : Statement (.ldMemRegs x) := of_wordXNN (by decide) x 0x55
theorem ldRegsMem (x : Reg) : Statement (.ldRegsMem x) := of_wordXNN (by decide) x 0x65

end Sys2Proof.Laws.TableRow
end

