-- ==== Sys2Proof/Laws/Step.lean ====
section
/-! SUPPORT. What executing an instruction and taking a step can answer. -/
namespace Sys2Proof.Machine

/-- An instruction answers a next state or raises a fatal condition, nothing else. -/
theorem exec_next_or_raised (i : Instr) (s : State) :
    (∃ t, exec i s = .next t) ∨ (∃ c, exec i s = .fault (.raised c)) := by
  cases i with
  | ret => cases h : s.pop <;> simp [exec, execRet, h, raiseFatal]
  | call nnn => cases h : s.push (trunc12 (s.pc.toNat + 2)) <;> simp [exec, execCall, h, raiseFatal]
  | skp x => cases h : s.opKey x <;> simp [exec, execSkp, h, raiseFatal]
  | sknp x => cases h : s.opKey x <;> simp [exec, execSknp, h, raiseFatal]
  | ldVxK x => cases h : leastKeyDown s.key <;> simp [exec, execLdVxK, h]
  | _ => exact .inl ⟨_, rfl⟩

/-- The step decodes with the value of STRICT_59 its machine was made with. -/
theorem State.decoded_eq (s : State) : s.decoded = decodeWith s.params.strict59 s.fetch := rfl

/-- All a Running step does. -/
theorem step_running {s : State} (h : s.status = .running) :
    step s = match s.decoded with
      | .inst i => exec i s
      | .invalid _ => .fault (.raised (.decodeFailure s.pc s.fetch)) := by
  unfold step; rw [h]; cases s.decoded <;> rfl

/-- A step that answers a next state executed the instruction it fetched, while Running. -/
theorem step_next {s t : State} (h : step s = .next t) :
    s.status = .running ∧ ∃ i, s.decoded = .inst i ∧ exec i s = .next t := by
  unfold step at h
  cases hs : s.status with
  | fatal c => simp [hs] at h
  | running =>
    cases hd : s.decoded with
    | inst i => exact ⟨rfl, i, rfl, by simpa [hs, hd] using h⟩
    | invalid w => simp [hs, hd, raiseFatal] at h

end Sys2Proof.Machine
end

