-- ==== Sys2Proof/Tests/Slice0.lean ====
section
/-! SUPPORT. Our own tests: decoding against words written out from the spec, at most two one-step tests per instruction
with the results of spec/95_test_vectors.md, and for every statement with hypotheses a witness that meets them. -/
namespace Sys2Proof.Tests

open Sys2Proof.Machine Sys2Proof.Spec

/-! ### Helpers -/

/-- Whether an outcome is a next state of which `p` holds. -/
def onNext (o : Host.Outcome State Fault Refusal) (p : State → Bool) : Bool :=
  match o with
  | .next t => p t
  | _ => false

/-- The cause of an outcome that is a raised fatal condition. -/
def causeOf (o : Host.Outcome State Fault Refusal) : Option Fatal :=
  match o with
  | .fault (.raised c) => some c
  | _ => none

/-- The reset state with some general registers set. -/
def withV (l : List (Reg × Byte)) : State :=
  { State.reset with v := l.foldl (fun v p => v.set p.1.val p.2 p.1.isLt) State.reset.v }

/-- One step on a state with the word `w` at its pc. -/
def stepOn (s : State) (w : Nat) : Host.Outcome State Fault Refusal :=
  step (s.withFetchWord 16 w)

/-! ### Well-formedness: each check refuses an ill-formed term -/

theorem test_wellFormed_refuses_seReg_nibble : wellFormedWith true (.seReg 0 1 1) = false := by decide
theorem test_wellFormed_refuses_sneReg_nibble : wellFormedWith true (.sneReg 0 1 15) = false := by decide
theorem test_wellFormed_admits_zero_nibble : wellFormedWith true (.seReg 0 1 0) = true := by decide
theorem test_wellFormed_default_admits_nibble : WellFormed (.sneReg 0 1 15) = true := by decide

/-! ### Decoding: every constructor by a word written out from spec/30_encoding.md R72, bit by bit -/

theorem test_decode_cls : decode 0b0000000011100000#16 = .inst .cls := by decide
theorem test_decode_ret : decode 0b0000000011101110#16 = .inst .ret := by decide
theorem test_decode_jp : decode 0b0001001000110100#16 = .inst (.jp 0x234) := by decide
theorem test_decode_call : decode 0b0010001000000110#16 = .inst (.call 0x206) := by decide
theorem test_decode_seImm : decode 0b0011000000000101#16 = .inst (.seImm 0 0x05) := by decide
theorem test_decode_sneImm : decode 0b0100111100000110#16 = .inst (.sneImm 15 0x06) := by decide
theorem test_decode_seReg : decode 0b0101000000010000#16 = .inst (.seReg 0 1 0) := by decide
theorem test_decode_ldImm : decode 0b0110000000000101#16 = .inst (.ldImm 0 0x05) := by decide
theorem test_decode_addImm : decode 0b0111111111111111#16 = .inst (.addImm 15 0xFF) := by decide
theorem test_decode_ldReg : decode 0b1000001111110000#16 = .inst (.ldReg 3 15) := by decide
theorem test_decode_orReg : decode 0b1000000000010001#16 = .inst (.orReg 0 1) := by decide
theorem test_decode_andReg : decode 0b1000000000010010#16 = .inst (.andReg 0 1) := by decide
theorem test_decode_xorReg : decode 0b1000000000010011#16 = .inst (.xorReg 0 1) := by decide
theorem test_decode_addReg : decode 0b1000000000010100#16 = .inst (.addReg 0 1) := by decide
theorem test_decode_sub : decode 0b1000000000010101#16 = .inst (.sub 0 1) := by decide
theorem test_decode_shr : decode 0b1000000000010110#16 = .inst (.shr 0 1) := by decide
theorem test_decode_subn : decode 0b1000000000010111#16 = .inst (.subn 0 1) := by decide
theorem test_decode_shl : decode 0b1000111111111110#16 = .inst (.shl 15 15) := by decide
theorem test_decode_sneReg : decode 0b1001000000011111#16 = .inst (.sneReg 0 1 0xF) := by decide
theorem test_decode_ldI : decode 0b1010001100000000#16 = .inst (.ldI 0x300) := by decide
theorem test_decode_jpV0 : decode 0b1011111111111111#16 = .inst (.jpV0 0xFFF) := by decide
theorem test_decode_rnd : decode 0b1100000000001111#16 = .inst (.rnd 0 0x0F) := by decide
theorem test_decode_drw : decode 0b1101000100100001#16 = .inst (.drw 1 2 1) := by decide
theorem test_decode_skp : decode 0b1110000010011110#16 = .inst (.skp 0) := by decide
theorem test_decode_sknp : decode 0b1110000010100001#16 = .inst (.sknp 0) := by decide
theorem test_decode_ldVxDT : decode 0b1111000100000111#16 = .inst (.ldVxDT 1) := by decide
theorem test_decode_ldVxK : decode 0b1111001100001010#16 = .inst (.ldVxK 3) := by decide
theorem test_decode_ldDTVx : decode 0b1111010000010101#16 = .inst (.ldDTVx 4) := by decide
theorem test_decode_ldSTVx : decode 0b1111010000011000#16 = .inst (.ldSTVx 4) := by decide
theorem test_decode_addI : decode 0b1111000000011110#16 = .inst (.addI 0) := by decide
theorem test_decode_ldF : decode 0b1111000000101001#16 = .inst (.ldF 0) := by decide
theorem test_decode_ldB : decode 0b1111000000110011#16 = .inst (.ldB 0) := by decide
theorem test_decode_ldMemRegs : decode 0b1111000101010101#16 = .inst (.ldMemRegs 1) := by decide
theorem test_decode_ldRegsMem : decode 0b1111001001100101#16 = .inst (.ldRegsMem 2) := by decide

/-- V-DEC-1, V-DEC-2. -/
theorem test_decode_family0_invalid :
    [0x0000, 0x00E1, 0x01E0, 0x0123].map decode = List.replicate 4 (.invalid .family0) := by decide
/-- V-DEC-4. -/
theorem test_decode_family8_invalid :
    [0x8008, 0x8009, 0x800A, 0x800B, 0x800C, 0x800D, 0x800F].map decode = List.replicate 7 (.invalid .family8) := by
  decide
/-- V-DEC-6. -/
theorem test_decode_familyE_invalid : [0xE09F, 0xE0A2, 0xE000].map decode = List.replicate 3 (.invalid .familyE) := by
  decide
/-- V-DEC-7. -/
theorem test_decode_familyF_invalid :
    [0xF000, 0xF0FF, 0xF056, 0xF066].map decode = List.replicate 4 (.invalid .familyF) := by decide
/-- V-DEC-9. -/
theorem test_decode_strict59 :
    decodeWith true 0x5011 = .invalid .strict5 ∧ decodeWith true 0x901F = .invalid .strict9 := by decide
/-- R64 in a machine made with STRICT_59 true: the step on 5011 is fatal, and on 5010 it is not. -/
theorem test_step_strict59 :
    causeOf (stepOn { State.reset with params := ⟨true, .wholeBox⟩ } 0x5011) = some (.decodeFailure 0x200 0x5011) ∧
    onNext (stepOn { State.reset with params := ⟨true, .wholeBox⟩ } 0x5010) (fun t => t.pc == 0x204) = true := by decide
theorem test_decode_needs_two_bytes : decodeBytes [0x60] = .invalid .tooShort := by decide
theorem test_decodeTableWord_row : decodeTableWord 16 0x6005 = some (.ldImm 0 5) := by decide

/-! ### Fetch (V-FET-2, S12) -/

theorem test_fetch_odd_pc :
    onNext (step { State.reset with pc := 0x201, memory := [(0x201, 0x61), (0x202, 0x07)] })
      (fun t => t.v[1] == 0x07 && t.pc == 0x203) = true := by decide
theorem test_fetch_wraps :
    { State.reset with pc := 0xFFF, memory := [(0, 0xF0), (0xFFF, 0x12)] }.fetch = 0x12F0 := by decide

/-! ### Control (section L2 of spec/95_test_vectors.md) -/

/-- V-JP-1. -/
theorem test_jp : onNext (stepOn State.reset 0x1234) (fun t => t.pc == 0x234) = true := by decide
/-- V-JPV0-2. -/
theorem test_jpV0_wraps : onNext (stepOn (withV [(0, 0xFF)]) 0xBFFF) (fun t => t.pc == 0x0FE) = true := by decide
/-- V-JPV0-3. -/
theorem test_jpV0_uses_v0 :
    onNext (stepOn (withV [(0, 0x01), (5, 0x80)]) 0xB500) (fun t => t.pc == 0x501) = true := by decide
/-- V-CALL-1. -/
theorem test_call : onNext (stepOn State.reset 0x2206)
    (fun t => t.stk[0] == 0x202 && t.sp == 1 && t.hls[0] == 60 && t.pc == 0x206) = true := by decide
/-- V-CALL-3. -/
theorem test_call_overflow : causeOf (stepOn { State.reset with sp := 16 } 0x2206) = some (.stackOverflow 0x200) := by
  decide
/-- V-RET-1. -/
theorem test_ret : onNext (exec .ret { State.reset with pc := 0x208, sp := 1, stk := State.reset.stk.set 0 0x202 })
    (fun t => t.sp == 0 && t.pc == 0x202 && t.hls[0] == 60 && t.stk[0] == 0x202) = true := by decide
/-- V-RET-2. -/
theorem test_ret_underflow : causeOf (stepOn State.reset 0x00EE) = some (.stackUnderflow 0x200) := by decide
/-- V-SE-3. -/
theorem test_seImm_wraps : onNext (exec (.seImm 3 0) { State.reset with pc := 0xFFE }) (fun t => t.pc == 0x002) = true := by
  decide
/-- V-SE-2. -/
theorem test_seImm_not_taken : onNext (stepOn (withV [(0, 5)]) 0x3006) (fun t => t.pc == 0x202) = true := by decide
/-- V-SNE-1. -/
theorem test_sneImm : onNext (stepOn (withV [(0, 5)]) 0x4006) (fun t => t.pc == 0x204) = true := by decide
/-- V-SNE-2. -/
theorem test_sneImm_not_taken : onNext (stepOn (withV [(0, 5)]) 0x4005) (fun t => t.pc == 0x202) = true := by decide
/-- V-SER-1, with a non-zero low nibble (V-DEC-8). -/
theorem test_seReg : onNext (stepOn (withV [(0, 3), (1, 3)]) 0x501F) (fun t => t.pc == 0x204) = true := by decide
/-- V-SNER-2. -/
theorem test_sneReg_same : onNext (stepOn (withV [(4, 7)]) 0x9440) (fun t => t.pc == 0x202) = true := by decide
/-- V-SNER-1. -/
theorem test_sneReg : onNext (stepOn (withV [(0, 1), (1, 2)]) 0x9010) (fun t => t.pc == 0x204) = true := by decide

/-! ### ALU -/

/-- V-LD-2. -/
theorem test_ldImm_vf : onNext (stepOn State.reset 0x6FAA) (fun t => t.v[15] == 0xAA && t.hlr[15] == 60) = true := by
  decide
/-- V-LDR-1. -/
theorem test_ldReg : onNext (stepOn (withV [(1, 0x42)]) 0x8010) (fun t => t.v[0] == 0x42 && t.v[1] == 0x42) = true := by
  decide
/-- V-ADDI-1. -/
theorem test_addImm_no_flag :
    onNext (stepOn (withV [(0, 0xFF), (15, 7)]) 0x7002) (fun t => t.v[0] == 1 && t.v[15] == 7) = true := by decide
/-- V-OR-1. -/
theorem test_orReg : onNext (stepOn (withV [(0, 0xF0), (1, 0x0F), (15, 0x55)]) 0x8011)
    (fun t => t.v[0] == 0xFF && t.v[15] == 0x55) = true := by decide
/-- V-AND-1. -/
theorem test_andReg : onNext (stepOn (withV [(0, 0xF0), (1, 0x0F)]) 0x8012) (fun t => t.v[0] == 0x00) = true := by decide
/-- V-XOR-1. -/
theorem test_xorReg : onNext (stepOn (withV [(0, 0xF0), (1, 0xFF)]) 0x8013) (fun t => t.v[0] == 0x0F) = true := by decide
/-- V-ADD-2. -/
theorem test_addReg_carry :
    onNext (stepOn (withV [(0, 0xFF), (1, 2)]) 0x8014) (fun t => t.v[0] == 1 && t.v[15] == 1) = true := by decide
/-- V-ADD-6: the flag is written last. -/
theorem test_addReg_into_vf : onNext (stepOn (withV [(15, 1), (1, 1)]) 0x8F14) (fun t => t.v[15] == 0) = true := by decide
/-- V-SUB-2. -/
theorem test_sub_borrow :
    onNext (stepOn (withV [(0, 3), (1, 5)]) 0x8015) (fun t => t.v[0] == 0xFE && t.v[15] == 0) = true := by decide
/-- V-SUB-3. -/
theorem test_sub_equal :
    onNext (stepOn (withV [(0, 5), (1, 5)]) 0x8015) (fun t => t.v[0] == 0 && t.v[15] == 1) = true := by decide
/-- V-SUBN-1. -/
theorem test_subn :
    onNext (stepOn (withV [(0, 3), (1, 5)]) 0x8017) (fun t => t.v[0] == 2 && t.v[15] == 1) = true := by decide
/-- V-SHR-2: y is ignored. -/
theorem test_shr : onNext (stepOn (withV [(0, 4), (1, 0xFF)]) 0x8016)
    (fun t => t.v[0] == 2 && t.v[1] == 0xFF && t.v[15] == 0) = true := by decide
/-- V-SHL-1. -/
theorem test_shl : onNext (stepOn (withV [(0, 0x81)]) 0x800E) (fun t => t.v[0] == 2 && t.v[15] == 1) = true := by decide
/-- V-SHL-3. -/
theorem test_shl_vf : onNext (stepOn (withV [(15, 0x81)]) 0x8FFE) (fun t => t.v[15] == 1) = true := by decide
/-- V-RND-2, for any draw: the pc and the count of draws. -/
theorem test_rnd_draws : onNext (stepOn State.reset 0xC000) (fun t => t.pc == 0x202 && t.draws == 1) = true := by decide

/-! ### Display -/

/-- The reset state with I = 0x300, one sprite byte there, V0 = V1 = 0 and the cells of `l` set. -/
def canvas (sprite : Byte) (l : List (Nat × Nat)) : State :=
  { State.reset with
    memory := [(0x300, sprite)], ireg := 0x300
    fb := l.foldl (fun fb p => Framebuffer.setPixel fb p.1 p.2 true) State.reset.fb }

/-- V-CLS-1. -/
theorem test_cls : onNext (exec .cls (canvas 0 [(3, 4)])) (fun t => !Framebuffer.getPixel t.fb 3 4) = true := by decide
/-- V-DRW-1: the columns wrap. -/
theorem test_drw_wraps :
    onNext (exec (.drw 1 2 1) { canvas 0xFF [] with v := (withV [(1, 0x3C), (2, 0x1F)]).v })
      (fun t => Framebuffer.getPixel t.fb 60 31 && Framebuffer.getPixel t.fb 63 31 && Framebuffer.getPixel t.fb 0 31 &&
        Framebuffer.getPixel t.fb 3 31 && !Framebuffer.getPixel t.fb 4 31 && t.v[15] == 0) = true := by decide
/-- V-DRW-5 under WHOLE_BOX. -/
theorem test_drw_whole_box : onNext (exec (.drw 0 1 1) (canvas 0x80 [(1, 0)]))
    (fun t => Framebuffer.getPixel t.fb 0 0 && Framebuffer.getPixel t.fb 1 0 && t.v[15] == 1) = true := by decide
/-- V-DRW-5 in a machine made with SET_BITS. -/
theorem test_drw_set_bits : onNext (exec (.drw 0 1 1) { canvas 0x80 [(1, 0)] with params := ⟨false, .setBits⟩ })
    (fun t => Framebuffer.getPixel t.fb 0 0 && Framebuffer.getPixel t.fb 1 0 && t.v[15] == 0) = true := by decide
/-- V-DRW-5 under SET_BITS. -/
theorem test_blit_set_bits :
    (blitWith .setBits (canvas 0x80 [(1, 0)]).memory 0 0 0x300 1 (canvas 0x80 [(1, 0)]).fb).2 = false := by decide
/-- Log 15: the second of two equal draws does not collide where the first one left its box all clear (S3: a draw onto an
all-clear region). -/
theorem test_second_draw_without_collision :
    let first := blitWith .wholeBox (canvas 0x80 []).memory 0 0 0x300 1 (canvas 0x80 [(0, 0)]).fb
    first.2 = true ∧ (blitWith .wholeBox (canvas 0x80 []).memory 0 0 0x300 1 first.1).2 = false := by decide
theorem test_togglePixel :
    Framebuffer.getPixel (Framebuffer.togglePixel Framebuffer.cleared 64 33) 0 1 = true := by decide

/-! ### Keys and timers -/

/-- The reset state with some keys down. -/
def withKeys (s : State) (l : List (Fin 16)) : State :=
  l.foldl (fun t k => t.setKey k true) s

/-- V-SKP-1. -/
theorem test_skp : onNext (stepOn (withKeys (withV [(0, 3)]) [3]) 0xE09E) (fun t => t.pc == 0x204 && t.key[3]) = true := by
  decide
/-- V-SKP-3. -/
theorem test_skp_range : causeOf (stepOn (withV [(0, 0x10)]) 0xE09E) = some (.keyIndexRange 0x200 0x10) := by decide
/-- V-SKNP-1. -/
theorem test_sknp : onNext (stepOn (withKeys (withV [(0, 3)]) [3]) 0xE0A1) (fun t => t.pc == 0x202) = true := by decide
/-- V-SKNP-3. -/
theorem test_sknp_range : causeOf (stepOn (withV [(0, 0xFF)]) 0xE0A1) = some (.keyIndexRange 0x200 0xFF) := by decide
/-- V-WK-1. -/
theorem test_wait_no_key : onNext (stepOn State.reset 0xF30A) (fun t => t.pc == 0x200 && t.v[3] == 0) = true := by decide
/-- V-WK-2. -/
theorem test_wait_least_key : onNext (stepOn (withKeys State.reset [9, 5]) 0xF30A)
    (fun t => t.v[3] == 5 && !t.key[5] && t.key[9] && t.pc == 0x202) = true := by decide
/-- V-DT-1. -/
theorem test_ldVxDT : onNext (stepOn { State.reset with dt := 0x2A } 0xF107)
    (fun t => t.v[1] == 0x2A && t.dt == 0x2A) = true := by decide
/-- V-DT-2. -/
theorem test_ldDTVx : onNext (stepOn (withV [(4, 0x3C)]) 0xF415) (fun t => t.dt == 0x3C) = true := by decide
/-- V-ST-1. -/
theorem test_ldSTVx : onNext (stepOn (withV [(4, 2)]) 0xF418) (fun t => t.st == 2 && t.soundActive) = true := by decide
/-- V-TICK-2. -/
theorem test_tick : (transact .tick { State.reset with st := 1 }).1.st = 0 ∧
    (transact .tick { State.reset with st := 1 }).1.soundActive = false := by decide
theorem test_decay_stops_at_zero : State.reset.decay.hlr[0] = 0 := by decide

/-! ### Address register and memory -/

/-- V-LDI-1. -/
theorem test_ldI : onNext (stepOn State.reset 0xA300) (fun t => t.ireg == 0x300) = true := by decide
/-- V-ADDI-I-2. -/
theorem test_addI_wraps : onNext (stepOn { withV [(0, 2), (15, 4)] with ireg := 0xFFFF } 0xF01E)
    (fun t => t.ireg == 1 && t.v[15] == 4) = true := by decide
/-- V-LDF-2. -/
theorem test_ldF : onNext (stepOn (withV [(0, 0xFF)]) 0xF029) (fun t => t.ireg == 0x4FB) = true := by decide
/-- V-BCD-1. -/
theorem test_ldB : onNext (stepOn { withV [(0, 0x9D)] with ireg := 0x300 } 0xF033)
    (fun t => t.readByte 0x300 == 1 && t.readByte 0x301 == 5 && t.readByte 0x302 == 7 && t.ireg == 0x300) = true := by
  decide
/-- V-ST55-1. -/
theorem test_ldMemRegs : onNext (stepOn { withV [(0, 0xFF), (1, 9)] with ireg := 0x300 } 0xF055)
    (fun t => t.readByte 0x300 == 0xFF && t.readByte 0x301 == 0 && t.ireg == 0x300) = true := by decide
/-- S1: I above 0xFFF is masked. -/
theorem test_ldMemRegs_masks_I : onNext (stepOn { withV [(0, 0x5A)] with ireg := 0x1300 } 0xF055)
    (fun t => t.readByte 0x300 == 0x5A) = true := by decide
/-- V-LD65-1. -/
theorem test_ldRegsMem :
    onNext (exec (.ldRegsMem 2) { State.reset with ireg := 0x300, memory := [(0x300, 1), (0x301, 5), (0x302, 7)] })
      (fun t => t.v[0] == 1 && t.v[1] == 5 && t.v[2] == 7 && t.v[3] == 0 && t.hlr[2] == 60 && t.hlr[3] == 0) = true := by
  decide
/-- Writing what an unlisted address reads as removes the cell, so equal memories are equal data. -/
theorem test_memory_canonical : Memory.write (Memory.write [] 0x300 7) 0x1300 0 = [] := by decide

/-! ### Reset (V-RST-1, V-RST-2, P6) -/

theorem test_reset_image :
    transact (.reset (some [0x12, 0x00])) State.reset =
      ({ State.reset with memory := [(0x200, 0x12)] }, .load (.loaded 2)) := by decide
theorem test_reset_no_image : (transact (.reset none) State.reset).2 = .load .empty := by decide
theorem test_reset_runs_into_zero : causeOf (step State.reset) = some (.decodeFailure 0x200 0) := by decide

/-! ### Witnesses: states and operands that meet the hypotheses of the statements -/

theorem witness_DecodeOfEncode :
    wellFormedWith false (.seReg 0 1 1) = true ∧ wellFormedWith true (.sneReg 0 1 0) = true := by decide
theorem witness_EncodeOfDecode : decodeWith true 0x5010 = .inst (.seReg 0 1 0) := by decide
theorem witness_FamilyZero :
    (0x00E1 : Word).toNat / 4096 = 0 ∧ (0x00E1 : Word) ≠ 0x00E0 ∧ (0x00E1 : Word) ≠ 0x00EE := by decide
theorem witness_FamiliesFiveAndNine : (0 : Nibble) = 0 ∧ ¬ (1 : Nibble) = 0 := by decide
theorem witness_SecondDispatch :
    (8 : Nibble).toNat ∉ [0x0, 0x1, 0x2, 0x3, 0x4, 0x5, 0x6, 0x7, 0xE] ∧ (0x9F : Byte).toNat ∉ [0x9E, 0xA1] ∧
    (0x66 : Byte).toNat ∉ [0x07, 0x0A, 0x15, 0x18, 0x1E, 0x29, 0x33, 0x55, 0x65] := by decide
theorem witness_StepRuns_inst :
    (State.reset.withFetchWord 16 0x6005).status = .running ∧
    decodeWith (State.reset.withFetchWord 16 0x6005).params.strict59 (State.reset.withFetchWord 16 0x6005).fetch =
      .inst (.ldImm 0 5) := by decide
theorem witness_StepRuns_invalid :
    State.reset.status = .running ∧
    decodeWith State.reset.params.strict59 State.reset.fetch = .invalid .family0 := by decide
theorem witness_FatalStatus : (State.reset.enterFatal (.stackOverflow 0x200)).status = .fatal (.stackOverflow 0x200) ∧
    ∀ e ∈ [Event.tick, .step, .decay, .setKey 3 true, .read .pc], isReset e = false := by decide
theorem witness_FatalStep : step State.reset = .fault (.raised (.decodeFailure 0x200 0x0000)) := rfl
theorem witness_FatalConditions :
    State.reset.status = .running ∧ causeOf (stepOn { State.reset with sp := 16 } 0x2206) = some (.stackOverflow 0x200) ∧
    causeOf (stepOn State.reset 0x00EE) = some (.stackUnderflow 0x200) ∧
    causeOf (stepOn (withV [(0, 0x10)]) 0xE0A1) = some (.keyIndexRange 0x200 0x10) := by decide
theorem witness_ZeroedMemory :
    State.reset.status = .running ∧ State.reset.readByte State.reset.pc.toNat = 0 ∧
    State.reset.readByte (State.reset.pc.toNat + 1) = 0 := by decide
theorem witness_Parked :
    (State.reset.withFetchWord 16 0x1200).status = .running ∧ (State.reset.withFetchWord 16 0x1200).parked = true := by
  decide
theorem witness_Return :
    State.reset.sp.val = 0 ∧ { State.reset with sp := 1 }.sp.val = (0 : Fin 16).val + 1 ∧
    { State.reset with sp := 16 }.sp.val = (15 : Fin 16).val + 1 := by decide
theorem witness_Call :
    { State.reset with sp := 16 }.sp.val = 16 ∧ State.reset.sp.val = (0 : Fin 16).val ∧
    { State.reset with sp := 15 }.sp.val = (15 : Fin 16).val := by decide
theorem witness_CallThenReturn :
    ∃ t u : State, exec (.call 0x206) State.reset = .next t ∧ u.sp = t.sp ∧ u.stk = t.stk :=
  ⟨_, _, rfl, rfl, rfl⟩
theorem witness_SkipsOnTwoRegisters : IsInvalid true (encode (.seReg 0 1 1)) ∧ IsInvalid true (encode (.sneReg 0 1 1)) :=
  ⟨⟨.strict5, by decide⟩, ⟨.strict9, by decide⟩⟩
theorem witness_destination_is_not_vf : (14 : Reg) ≠ 15 := by decide
theorem witness_Random : (0x00 : Byte) = 0x00 ∧ (0xFF : Byte) = 0xFF := by decide
theorem witness_Blit :
    15 ≤ 15 ∧ (blitWith .wholeBox [(0x300, 0x80)] 0 0 0x300 1 (canvas 0 [(1, 0)]).fb).2 = true := by decide
theorem witness_Draw_no_rows : (0 : Nibble) = 0 := rfl
theorem witness_DrawTwice :
    ∃ t u : State, exec (.drw 0 1 1) (canvas 0x80 []) = .next t ∧ u.fb = t.fb ∧ u.v[(0 : Reg)] = (canvas 0x80 []).v[(0 : Reg)] ∧
      u.v[(1 : Reg)] = (canvas 0x80 []).v[(1 : Reg)] ∧ u.ireg = (canvas 0x80 []).ireg ∧
      ∀ r < (1 : Nibble).toNat, u.readByte (u.addrI r) = (canvas 0x80 []).readByte ((canvas 0x80 []).addrI r) :=
  ⟨_, _, rfl, rfl, rfl, rfl, rfl, fun _ _ => rfl⟩
theorem witness_DrawTwice_collides :
    0 < (1 : Nibble).toNat ∧ 0 < 8 ∧ ((canvas 0x80 []).readByte ((canvas 0x80 []).addrI 0)).getLsbD (7 - 0) = true ∧
    Framebuffer.getPixel (canvas 0x80 []).fb ((canvas 0x80 []).v[(0 : Reg)].toNat + 0)
      ((canvas 0x80 []).v[(1 : Reg)].toNat + 0) = false := by decide
theorem witness_DrawOntoAClearOrASetBox :
    (∀ r < (15 : Nibble).toNat, ∀ c < 8, Framebuffer.getPixel (canvas 0x80 []).fb (0 + c) (0 + r) = false) ∧
    ((canvas 0x80 [(7, 0)]).params.collisionScope = .wholeBox ∧
      Framebuffer.getPixel (canvas 0x80 [(7, 0)]).fb (0 + 7) (0 + 0) = true) ∧
    (((canvas 0x80 [(0, 0)]).readByte ((canvas 0x80 [(0, 0)]).addrI 0)).getLsbD (7 - 0) = true ∧
      Framebuffer.getPixel (canvas 0x80 [(0, 0)]).fb (0 + 0) (0 + 0) = true) ∧
    ({ canvas 0x80 [(1, 0)] with params := ⟨false, .setBits⟩ }.params.collisionScope = .setBits ∧
      ∀ r < (1 : Nibble).toNat, ∀ c < 8,
        ((canvas 0x80 [(1, 0)]).readByte ((canvas 0x80 [(1, 0)]).addrI r)).getLsbD (7 - c) = true →
        Framebuffer.getPixel (canvas 0x80 [(1, 0)]).fb (0 + c) (0 + r) = false) := by decide
theorem witness_SkipsOnAKey :
    (withV [(0, 15)]).v[(0 : Reg)].toNat = (15 : Fin 16).val ∧ (withV [(0, 16)]).v[(0 : Reg)].toNat > 15 := by decide
theorem witness_WaitForKey :
    (∀ k : Fin 16, State.reset.key[k] = false) ∧ (withKeys State.reset [15]).key[(15 : Fin 16)] = true ∧
    ∀ j : Fin 16, j < 15 → (withKeys State.reset [15]).key[j] = false := by decide
theorem witness_Tick : { State.reset with dt := 1 }.status = .running := rfl
theorem witness_BulkStore : (15 : Reg) ≤ 15 := by decide
theorem witness_BulkLoad : (0 : Reg) ≤ 0 ∧ (0 : Reg) < 1 := by decide
theorem witness_BulkLoadReadsBack :
    ∃ t u : State, exec (.ldMemRegs 15) { State.reset with ireg := 0xFF8 } = .next t ∧ u.memory = t.memory ∧
      u.ireg = t.ireg :=
  ⟨_, _, rfl, rfl, rfl⟩
theorem witness_SixteenBit : 1 % 4096 ≠ 0xFFF % 4096 ∧ 1 % 4096 ≠ (0xFFF + 1) % 4096 := by decide
theorem witness_CanonicalMemories : Memory.wf [(0x300, 1), (0xFFF, 2)] := by decide
theorem witness_FrameOfControl :
    (∃ t, exec .ret { State.reset with sp := 1 } = .next t) ∧ (∃ t, exec (.call 0x206) State.reset = .next t) ∧
    (∃ t, exec (.jp 0x206) State.reset = .next t) ∧ (∃ t, exec (.jpV0 0x206) State.reset = .next t) ∧
    (∃ t, exec (.seImm 0 0) State.reset = .next t) ∧ (∃ t, exec (.sneImm 0 0) State.reset = .next t) ∧
    (∃ t, exec (.seReg 0 1 0) State.reset = .next t) ∧ (∃ t, exec (.sneReg 0 1 0) State.reset = .next t) :=
  ⟨⟨_, rfl⟩, ⟨_, rfl⟩, ⟨_, rfl⟩, ⟨_, rfl⟩, ⟨_, rfl⟩, ⟨_, rfl⟩, ⟨_, rfl⟩, ⟨_, rfl⟩⟩
theorem witness_FrameOfAlu :
    (∃ t, exec (.ldImm 0 5) State.reset = .next t) ∧ (∃ t, exec (.addImm 0 5) State.reset = .next t) ∧
    (∃ t, exec (.ldReg 0 1) State.reset = .next t) ∧ (∃ t, exec (.orReg 0 1) State.reset = .next t) ∧
    (∃ t, exec (.andReg 0 1) State.reset = .next t) ∧ (∃ t, exec (.xorReg 0 1) State.reset = .next t) ∧
    (∃ t, exec (.addReg 0 1) State.reset = .next t) ∧ (∃ t, exec (.sub 0 1) State.reset = .next t) ∧
    (∃ t, exec (.shr 0 1) State.reset = .next t) ∧ (∃ t, exec (.subn 0 1) State.reset = .next t) ∧
    (∃ t, exec (.shl 0 1) State.reset = .next t) ∧ (∃ t, exec (.rnd 0 1) State.reset = .next t) :=
  ⟨⟨_, rfl⟩, ⟨_, rfl⟩, ⟨_, rfl⟩, ⟨_, rfl⟩, ⟨_, rfl⟩, ⟨_, rfl⟩, ⟨_, rfl⟩, ⟨_, rfl⟩, ⟨_, rfl⟩, ⟨_, rfl⟩, ⟨_, rfl⟩, ⟨_, rfl⟩⟩
theorem witness_FrameOfDisplay :
    (∃ t, exec .cls State.reset = .next t) ∧ (∃ t, exec (.drw 0 1 2) State.reset = .next t) :=
  ⟨⟨_, rfl⟩, ⟨_, rfl⟩⟩
theorem witness_FrameOfKeysAndTimers :
    (∃ t, exec (.skp 0) State.reset = .next t) ∧ (∃ t, exec (.sknp 0) State.reset = .next t) ∧
    (∃ t, exec (.ldVxK 0) State.reset = .next t) ∧ (∃ t, exec (.ldVxK 0) (withKeys State.reset [3]) = .next t) ∧
    (∃ t, exec (.ldVxDT 0) State.reset = .next t) ∧ (∃ t, exec (.ldDTVx 0) State.reset = .next t) ∧
    (∃ t, exec (.ldSTVx 0) State.reset = .next t) :=
  ⟨⟨_, rfl⟩, ⟨_, rfl⟩, ⟨_, rfl⟩, ⟨_, rfl⟩, ⟨_, rfl⟩, ⟨_, rfl⟩, ⟨_, rfl⟩⟩
theorem witness_FrameOfAddressAndMemory :
    (∃ t, exec (.ldI 0x300) State.reset = .next t) ∧ (∃ t, exec (.addI 0) State.reset = .next t) ∧
    (∃ t, exec (.ldF 0) State.reset = .next t) ∧ (∃ t, exec (.ldB 0) State.reset = .next t) ∧
    (∃ t, exec (.ldMemRegs 15) State.reset = .next t) ∧ (∃ t, exec (.ldRegsMem 15) State.reset = .next t) :=
  ⟨⟨_, rfl⟩, ⟨_, rfl⟩, ⟨_, rfl⟩, ⟨_, rfl⟩, ⟨_, rfl⟩, ⟨_, rfl⟩⟩
theorem witness_EachPart :
    onNext (exec (.ldB 0) { State.reset with ireg := 0x300, v := (withV [(0, 0x9D)]).v }) (fun t => t.memory != []) = true ∧
    onNext (exec .cls (canvas 0 [(3, 4)])) (fun t => Framebuffer.getPixel t.fb 3 4 != Framebuffer.getPixel (canvas 0 [(3, 4)]).fb 3 4) = true ∧
    onNext (exec (.ldVxK 0) (withKeys State.reset [3])) (fun t => t.key != (withKeys State.reset [3]).key) = true ∧
    onNext (exec (.call 0x206) State.reset) (fun t => t.stk != State.reset.stk && t.sp != State.reset.sp) = true ∧
    onNext (exec (.ldI 0x300) State.reset) (fun t => t.ireg != State.reset.ireg) = true ∧
    onNext (exec (.ldDTVx 0) (withV [(0, 5)])) (fun t => t.dt != 0) = true ∧
    onNext (exec (.ldSTVx 0) (withV [(0, 5)])) (fun t => t.st != 0) = true ∧
    onNext (exec (.ldImm 0 5) State.reset) (fun t => t.v[0] != State.reset.v[0] && t.hlr[0] != State.reset.hlr[0]) = true ∧
    onNext (exec .ret { State.reset with sp := 1 }) (fun t => t.hls != State.reset.hls) = true ∧
    onNext (exec (.rnd 0 5) State.reset) (fun t => t.draws != 0) = true := by decide
theorem witness_Outputs : withoutOutputs State.reset = withoutOutputs { State.reset with st := 9 } := rfl
theorem witness_ResetLoads :
    1 ≤ (List.replicate 3584 (0 : Byte)).length ∧ (List.replicate 3584 (0 : Byte)).length ≤ 3584 ∧
    ([] : List Byte).length = 0 ∧ (List.replicate 3585 (0 : Byte)).length > 3584 ∧ 0xFFF < 4096 :=
  ⟨by rw [List.length_replicate]; omega, by rw [List.length_replicate], rfl, by rw [List.length_replicate]; omega,
    by omega⟩
theorem witness_StepKeepsTheInvariant :
    (State.reset.withFetchWord 16 0x2206).Inv ∧ ∃ t, step (State.reset.withFetchWord 16 0x2206) = .next t :=
  ⟨⟨by decide, by decide, by decide, by decide, Memory.wf_writeBytes Memory.wf_nil _ _⟩, ⟨_, rfl⟩⟩
theorem witness_EveryTransactionKeepsTheInvariant : (State.reset.withFetchWord 16 0x2206).Inv :=
  witness_StepKeepsTheInvariant.1
theorem witness_Reachable : Reachable (transact .tick (State.resetWith ⟨true, .setBits⟩ 0 none)).1 :=
  .event .tick (.reset ⟨true, .setBits⟩ 0 none)

end Sys2Proof.Tests
end

section
/-! The Running step, one equation per outcome of decoding (spec/10_state.md R35). -/
namespace Sys2Proof.Machine

/-- A Running step on a word that decodes executes its instruction. -/
theorem step_of_decoded_inst {s : State} {i : Instr} (hs : s.status = .running) (hd : s.decoded = .inst i) :
    step s = exec i s := by
  rw [step_running hs, hd]

/-- A Running step on an invalid word raises DECODE_FAILURE, whatever made the word invalid. -/
theorem step_of_decoded_invalid {s : State} {why : Reject} (hs : s.status = .running)
    (hd : s.decoded = .invalid why) : step s = .fault (.raised (.decodeFailure s.pc s.fetch)) := by
  rw [step_running hs, hd]

/-- A Running step is neither refused nor an attempt at a machine already Fatal. -/
theorem step_next_or_raised {s : State} (hs : s.status = .running) :
    (∃ t, step s = .next t) ∨ (∃ c, step s = .fault (.raised c)) := by
  cases hd : s.decoded with
  | inst i =>
    rw [step_of_decoded_inst hs hd]
    exact exec_next_or_raised i s
  | invalid why => exact .inr ⟨_, step_of_decoded_invalid hs hd⟩

/-- Settles O9: each clause is the equation of the Running step for what the fetched word decodes to. -/
theorem stepRunsTheDecodedInstruction : Obligations.StepRunsTheDecodedInstruction := by
  intro s hs
  exact ⟨fun i hd => step_of_decoded_inst hs (s.decoded_eq.trans hd),
    fun why hd => step_of_decoded_invalid hs (s.decoded_eq.trans hd), step_next_or_raised hs⟩

end Sys2Proof.Machine
end

section
/-! Memory addresses wrap, and the 16-bit forms are two masked byte accesses (spec/20_memory.md R40-R43). -/
namespace Sys2Proof.Machine

/-! ### Bytes of a word -/

theorem highByte_toNat (w : Word) : (highByte w).toNat = w.toNat / 256 := by
  simp only [highByte, BitVec.toNat_ofNat]; omega

/-! ### Masking of a byte address -/

theorem Memory.read_mod (m : Memory) (a : Nat) : Memory.read m (a % 4096) = Memory.read m a := by
  simp only [Memory.read, Nat.mod_mod]

theorem Memory.write_mod (m : Memory) (a : Nat) (b : Byte) : Memory.write m (a % 4096) b = Memory.write m a b := by
  simp only [Memory.write, Nat.mod_mod]

/-! ### The 16-bit forms -/

theorem Memory.read16_toNat (m : Memory) (a : Nat) :
    (Memory.read16 m a).toNat = (Memory.read m a).toNat * 256 + (Memory.read m (a + 1)).toNat :=
  wordOfBytes_toNat ..

/-- All a 16-bit write does. -/
theorem Memory.read_write16 (m : Memory) (a b : Nat) (w : Word) :
    Memory.read (Memory.write16 m a w) b =
      if (a + 1) % 4096 = b % 4096 then lowByte w
      else if a % 4096 = b % 4096 then highByte w
      else Memory.read m b := by
  rw [Memory.write16, Memory.read_write, Memory.read_write]

/-- The low byte never overwrites the high one: neighbours stay apart modulo 4096, also at 0xFFF. -/
theorem Memory.read_write16_high (m : Memory) (a : Nat) (w : Word) :
    Memory.read (Memory.write16 m a w) a = highByte w := by
  have distinct : (a + 1) % 4096 ≠ a % 4096 := by omega
  rw [Memory.read_write16, if_neg distinct, if_pos rfl]

theorem Memory.read_write16_low (m : Memory) (a : Nat) (w : Word) :
    Memory.read (Memory.write16 m a w) (a + 1) = lowByte w := by
  rw [Memory.read_write16, if_pos rfl]

theorem Memory.read_write16_of_ne {m : Memory} {a b : Nat} {w : Word} (hhi : b % 4096 ≠ a % 4096)
    (hlo : b % 4096 ≠ (a + 1) % 4096) : Memory.read (Memory.write16 m a w) b = Memory.read m b := by
  rw [Memory.read_write16, if_neg hlo.symm, if_neg hhi.symm]

theorem Memory.read16_write16 (m : Memory) (a : Nat) (w : Word) : Memory.read16 (Memory.write16 m a w) a = w := by
  rw [Memory.read16, Memory.read_write16_high, Memory.read_write16_low, wordOfBytes_high_low]

/-- Settles O45: the bytes at the two addresses of the word are read back one by one, and put together. -/
theorem sixteenBitFormsAreBigEndian : Obligations.SixteenBitFormsAreBigEndian := by
  intro m a w
  refine ⟨Memory.read16_toNat m a, Memory.read16_write16 m a w, ?_, fun b => Memory.read_write16_of_ne⟩
  rw [Memory.read_write16_high, highByte_toNat]

/-! ### No memory access is fatal -/

/-- An instruction that answers a next state does not fault. -/
theorem exec_ne_fault_of_next {i : Instr} {s t : State} (h : exec i s = .next t) (r : Fault) :
    exec i s ≠ .fault r := by
  simp [h]

/-- Settles O44: reads and writes mask their address themselves, and each of the four instructions that reach memory
through I answers a next state on every state. -/
theorem memoryAccessWraps : Obligations.MemoryAccessWraps := by
  refine ⟨fun m a => (Memory.read_mod m a).symm, fun m a b => (Memory.write_mod m a b).symm, fun s x y n r => ?_⟩
  have bcd : exec (.ldB x) s = .next _ := rfl
  have bulkStore : exec (.ldMemRegs x) s = .next _ := rfl
  have bulkLoad : exec (.ldRegsMem x) s = .next _ := rfl
  have draw : exec (.drw x y n) s = .next _ := rfl
  exact ⟨exec_ne_fault_of_next bcd r, exec_ne_fault_of_next bulkStore r, exec_ne_fault_of_next bulkLoad r,
    exec_ne_fault_of_next draw r⟩

end Sys2Proof.Machine
end

section
/-! Where the jumps and the skips on an immediate take the pc (spec/40_control.md R78, R79, R81, R82). -/
namespace Sys2Proof.Machine

/-! ### The pc after a write and after a skip -/

theorem State.setPc_pc_toNat (s : State) (t : Nat) : (s.setPc t).pc.toNat = t % 4096 := trunc12_toNat t

theorem State.skip_pcMoves (s : State) (c : Bool) : Spec.PcMoves s (s.skip c) (if c then 4 else 2) := by
  rw [Spec.PcMoves, State.skip_pc, trunc12_toNat]

/-- From the Boolean test the model runs to the condition the SE rules state (R81). -/
theorem State.skip_pcMoves_of_iff {p : Prop} [Decidable p] {c : Bool} (s : State) (h : c = true ↔ p) :
    Spec.PcMoves s (s.skip c) (if p then 4 else 2) := by
  simpa only [h] using s.skip_pcMoves c

/-- The same for the SNE rules, whose test is the negation of the condition stated (R82). -/
theorem State.skip_pcMoves_of_iff_not {p : Prop} [Decidable p] {c : Bool} (s : State) (h : c = true ↔ ¬ p) :
    Spec.PcMoves s (s.skip c) (if p then 2 else 4) := by
  simpa only [ite_not] using s.skip_pcMoves_of_iff h

/-! ### What each of the four instructions does -/

theorem exec_jp (s : State) (nnn : Addr) : exec (.jp nnn) s = .next (s.setPc nnn.toNat) := rfl

theorem exec_jpV0 (s : State) (nnn : Addr) :
    exec (.jpV0 nnn) s = .next (s.setPc (nnn.toNat + s.v[(0 : Reg)].toNat)) := rfl

theorem exec_seImm (s : State) (x : Reg) (nn : Byte) : exec (.seImm x nn) s = .next (s.skip (s.v[x] == nn)) := rfl

theorem exec_sneImm (s : State) (x : Reg) (nn : Byte) : exec (.sneImm x nn) s = .next (s.skip (s.v[x] != nn)) := rfl

/-- Settles O18: both jumps write the pc modulo 4096, which a 12-bit address is below already. -/
theorem jumpsSetThePc : Obligations.JumpsSetThePc := by
  intro s nnn
  have jp_target : (s.setPc nnn.toNat).pc.toNat = nnn.toNat := by
    rw [State.setPc_pc_toNat, Nat.mod_eq_of_lt nnn.isLt]
  exact ⟨⟨_, exec_jp s nnn, jp_target⟩, ⟨_, exec_jpV0 s nnn, State.setPc_pc_toNat _ _⟩⟩

/-- Settles O19: SE skips on the test for equality, SNE on its negation. -/
theorem skipsOnAnImmediate : Obligations.SkipsOnAnImmediate := by
  intro s x nn
  exact ⟨⟨_, exec_seImm s x nn, s.skip_pcMoves_of_iff beq_iff_eq⟩,
    ⟨_, exec_sneImm s x nn, s.skip_pcMoves_of_iff_not bne_iff_ne⟩⟩

end Sys2Proof.Machine
end

section
/-! The loads and the immediate addition: one register written, then the next instruction (spec/41_alu.md R87-R89). -/
namespace Sys2Proof.Machine

/-! ### The shared shape: write one register, then advance -/

theorem State.setV_advance_wrote (s : State) (x : Reg) (b : Byte) : Spec.Wrote (s.setV x b).advance x b := by
  constructor
  · rw [State.advance_v, State.setV_getElem_v, if_pos rfl]
  · rw [State.advance_hlr, State.setV_getElem_hlr, if_pos rfl]

theorem State.setV_advance_v_of_ne {x j : Reg} (s : State) (b : Byte) (h : x ≠ j) :
    (s.setV x b).advance.v[j] = s.v[j] := by
  rw [State.advance_v, State.setV_getElem_v, if_neg h]

theorem State.setV_advance_pcMoves (s : State) (x : Reg) (b : Byte) : Spec.PcMoves s (s.setV x b).advance 2 := by
  rw [Spec.PcMoves, State.advance_pc, State.setV_pc, trunc12_toNat]

/-! ### What each of the three instructions does -/

theorem exec_ldImm (s : State) (x : Reg) (nn : Byte) : exec (.ldImm x nn) s = .next (s.setV x nn).advance := rfl

theorem exec_ldReg (s : State) (x y : Reg) : exec (.ldReg x y) s = .next (s.setV x s.v[y]).advance := rfl

theorem exec_addImm (s : State) (x : Reg) (nn : Byte) :
    exec (.addImm x nn) s = .next (s.setV x (trunc8 (s.v[x].toNat + nn.toNat))).advance := rfl

/-- Settles O21: each load writes one register and advances. The value of LD Vx, Vy is read before the write, so
x = y needs no case of its own. -/
theorem loadsWriteTheRegister : Obligations.LoadsWriteTheRegister := by
  intro s x y nn
  exact ⟨⟨_, exec_ldImm s x nn, s.setV_advance_wrote x nn, s.setV_advance_pcMoves x nn⟩,
    ⟨_, exec_ldReg s x y, s.setV_advance_wrote x s.v[y], s.setV_advance_pcMoves x s.v[y]⟩⟩

/-- Settles O22: the one register written holds the truncated sum, so VF changes only as the destination. -/
theorem addImmediateWrapsWithoutFlag : Obligations.AddImmediateWrapsWithoutFlag := by
  intro s x nn
  obtain ⟨hsum, hmark⟩ := s.setV_advance_wrote x (trunc8 (s.v[x].toNat + nn.toNat))
  exact ⟨_, exec_addImm s x nn, by rw [hsum, trunc8_toNat], hmark, s.setV_advance_v_of_ne _,
    s.setV_advance_pcMoves x _⟩

end Sys2Proof.Machine
end

section
/-! What CLS and DRW leave in the framebuffer, in VF and in the pc (spec/42_display.md R104, R105). What the blit does
to the cells is not needed here: DRW stores what the blit answers. -/
namespace Sys2Proof.Machine

theorem Framebuffer.getPixel_cleared (p q : Nat) : Framebuffer.getPixel Framebuffer.cleared p q = false := by
  simp only [Framebuffer.getPixel, Framebuffer.cleared, Vector.getElem_replicate]

theorem State.advance_pcMoves (s : State) : Spec.PcMoves s s.advance 2 := by
  rw [Spec.PcMoves, State.advance_pc, trunc12_toNat]

/-! ### The blit of a DRW -/

/-- What `DRW Vx, Vy, n` blits: n rows from I at the (Vx, Vy) of the state before it (R105). `exec_drw` ties it to the
model. -/
def State.drwBlit (s : State) (x y : Reg) (n : Nibble) : Framebuffer × Bool :=
  s.blit s.v[x].toNat s.v[y].toNat s.ireg.toNat n.toNat

theorem State.drwBlit_no_rows (s : State) (x y : Reg) : s.drwBlit x y 0 = (s.fb, false) := rfl

/-! ### What each of the two instructions does -/

theorem exec_cls (s : State) : exec .cls s = .next { s with fb := Framebuffer.cleared }.advance := rfl

theorem exec_drw (s : State) (x y : Reg) (n : Nibble) :
    exec (.drw x y n) s = .next ({ s with fb := (s.drwBlit x y n).1 }.setV 15
      (if (s.drwBlit x y n).2 then 1 else 0)).advance := rfl

/-- Settles O28: the framebuffer is the only field written besides the pc, and every cell of it is clear. -/
theorem clearDisplayClearsEveryPixel : Obligations.ClearDisplayClearsEveryPixel := by
  intro s
  exact ⟨_, exec_cls s, Framebuffer.getPixel_cleared, rfl, State.advance_pcMoves _⟩

/-- Settles O30: the blit is taken on the state before any write, so x = 15 and y = 15 need no case of their own; with
n = 0 it answers the framebuffer it was given and no collision. -/
theorem drawBlitsAndSetsCollision : Obligations.DrawBlitsAndSetsCollision := by
  intro s x y n
  have hvf := State.setV_advance_wrote { s with fb := (s.drwBlit x y n).1 } 15 (if (s.drwBlit x y n).2 then 1 else 0)
  refine ⟨_, exec_drw s x y n, rfl, hvf, ?_, rfl, State.setV_advance_pcMoves _ _ _⟩
  rintro rfl
  obtain ⟨hflag, -⟩ := hvf
  constructor
  · exact congrArg Prod.fst (s.drwBlit_no_rows x y)
  · rw [hflag, s.drwBlit_no_rows]
    rfl

end Sys2Proof.Machine
end

section
/-! The timers: the instructions that move bytes between them and the registers (spec/43_input_timers.md R113-R115) and
the tick that counts them down (R116, R117). -/
namespace Sys2Proof.Machine

/-! ### What each of the three instructions does -/

theorem exec_ldVxDT (s : State) (x : Reg) : exec (.ldVxDT x) s = .next (s.setV x s.dt).advance := rfl

theorem exec_ldDTVx (s : State) (x : Reg) : exec (.ldDTVx x) s = .next { s with dt := s.v[x] }.advance := rfl

theorem exec_ldSTVx (s : State) (x : Reg) : exec (.ldSTVx x) s = .next { s with st := s.v[x] }.advance := rfl

/-- The sound is on exactly while ST is not 0 (R118). -/
theorem State.soundActive_iff (s : State) : s.soundActive = true ↔ s.st ≠ 0 := bne_iff_ne

/-- Settles O35: each instruction writes one register or one timer and advances; soundActive is read off the ST just
written, so a write of 0 silences it and needs no case of its own. -/
theorem timerInstructionsMoveTheTimers : Obligations.TimerInstructionsMoveTheTimers := by
  intro s x
  refine ⟨⟨_, exec_ldVxDT s x, ?readDT⟩, ⟨_, exec_ldDTVx s x, ?writeDT⟩, ⟨_, exec_ldSTVx s x, ?writeST⟩⟩
  case readDT => exact ⟨s.setV_advance_wrote x s.dt, rfl, s.setV_advance_pcMoves x s.dt⟩
  case writeDT => exact ⟨rfl, State.advance_pcMoves _⟩
  case writeST => exact ⟨rfl, State.soundActive_iff _, State.advance_pcMoves _⟩

/-! ### The tick -/

/-- A tick of a Running machine is taken (R117). -/
theorem transact_tick_of_running {s : State} (hs : s.status = .running) : transact .tick s = (s.tick, .done) := by
  simp only [transact, State.tickEvent, hs]

/-- With both timers put back, a tick has changed nothing. -/
theorem State.tick_frame (s : State) : { s.tick with dt := s.dt, st := s.st } = s := rfl

/-- Settles O36: the tick is taken, each timer counts down as a byte that stops at 0, and the timers are all it
writes. -/
theorem tickCountsBothTimersDown : Obligations.TickCountsBothTimersDown := by
  intro s hs
  rw [transact_tick_of_running hs]
  exact ⟨countDown_toNat s.dt, countDown_toNat s.st, s.tick_frame⟩

end Sys2Proof.Machine
end

section
/-! Zeroed memory holds no instruction: a fetch of two zero bytes is a decode failure (spec/70_reset_and_hazards.md
R145). -/
namespace Sys2Proof.Machine

/-- The word 0x0000 is in family 0 and is neither 00E0 nor 00EE, so STRICT_59 does not matter (R62). -/
theorem decodeWith_zero (strict : Bool) : decodeWith strict 0x0000 = .invalid .family0 := rfl

theorem State.fetch_eq_zero {s : State} (hhi : s.readByte s.pc.toNat = 0) (hlo : s.readByte (s.pc.toNat + 1) = 0) :
    s.fetch = 0x0000 := by
  rw [State.readByte] at hhi hlo
  rw [State.fetch, Memory.read16, hhi, hlo]
  rfl

theorem step_of_zero_bytes {s : State} (hs : s.status = .running) (hhi : s.readByte s.pc.toNat = 0)
    (hlo : s.readByte (s.pc.toNat + 1) = 0) : step s = .fault (.raised (.decodeFailure s.pc 0x0000)) := by
  have hf : s.fetch = 0x0000 := State.fetch_eq_zero hhi hlo
  have hd : s.decoded = .invalid .family0 := by rw [s.decoded_eq, hf, decodeWith_zero]
  rw [step_of_decoded_invalid hs hd, hf]

/-- With no image, memory above the font reads as zero after a reset (R140). -/
theorem State.resetWith_none_readByte {a : Nat} (p : Params) (draws : Nat) (hfont : Config.fontBytes ≤ a % 4096) :
    (State.resetWith p draws none).readByte a = 0 :=
  (Memory.read_nil a).trans (if_neg (Nat.not_lt.mpr hfont))

/-- Settles O13: the bytes at 0x200 and 0x201 lie above the font, so the first step after a reset with no image is one
of the steps that fetch two zero bytes. -/
theorem zeroedMemoryIsADecodeFailure : Obligations.ZeroedMemoryIsADecodeFailure := by
  refine ⟨fun p draws => ?_, fun s => step_of_zero_bytes⟩
  have hhi : (State.resetWith p draws none).readByte 0x200 = 0 := State.resetWith_none_readByte p draws (by decide)
  have hlo : (State.resetWith p draws none).readByte 0x201 = 0 := State.resetWith_none_readByte p draws (by decide)
  exact step_of_zero_bytes (s := State.resetWith p draws none) rfl hhi hlo

end Sys2Proof.Machine
end

section
/-! Decoding and encoding are inverse to each other (spec/30_encoding.md): the decoder on the words the encoder builds,
and the encoder on the fields the decoder takes. -/
namespace Sys2Proof

/-! ### From an instruction to its word and back -/

/-- Settles O1: each word is built in one of the three formats, whose fields are read back one by one; the low nibble or
byte that a row fixes then selects the row again. -/
theorem decodeOfEncodeIsTheInstruction : Obligations.DecodeOfEncodeIsTheInstruction := by
  intro strict i hwf
  cases i with
  | cls | ret => rfl
  | jp nnn | call nnn | ldI nnn | jpV0 nnn =>
    simp [encode, decodeWith, fieldFamily_wordNNN, fieldNNN_wordNNN]
  | seImm x nn | sneImm x nn | ldImm x nn | addImm x nn | rnd x nn =>
    simp [encode, decodeWith, fieldFamily_wordXNN, fieldX_wordXNN, fieldNN_wordXNN]
  | seReg x y n | sneReg x y n =>
    have hn : nibble59Ok strict n = true := hwf
    simp [encode, decodeWith, fieldFamily_wordXYN, fieldX_wordXYN, fieldY_wordXYN, fieldN_wordXYN, hn]
  | drw x y n =>
    simp [encode, decodeWith, fieldFamily_wordXYN, fieldX_wordXYN, fieldY_wordXYN, fieldN_wordXYN]
  | ldReg x y | orReg x y | andReg x y | xorReg x y | addReg x y | sub x y | shr x y | subn x y | shl x y =>
    simp [encode, decodeWith, decodeFamily8, fieldFamily_wordXYN, fieldX_wordXYN, fieldY_wordXYN, fieldN_wordXYN]
  | skp x | sknp x =>
    simp [encode, decodeWith, decodeFamilyE, fieldFamily_wordXNN, fieldX_wordXNN, fieldNN_wordXNN]
  | ldVxDT x | ldVxK x | ldDTVx x | ldSTVx x | addI x | ldF x | ldB x | ldMemRegs x | ldRegsMem x =>
    simp [encode, decodeWith, decodeFamilyF, fieldFamily_wordXNN, fieldX_wordXNN, fieldNN_wordXNN]

/-! ### From a word to its instruction and back -/

theorem fieldFamily_lt (op : Word) : fieldFamily op < 16 := by
  rw [fieldFamily_eq]; omega

/-- A word in format F_NNN is rebuilt from its family and its address. -/
theorem wordNNN_of_fields {op : Word} {a : Nat} (ha : fieldFamily op = a) : wordNNN a (fieldNNN op) = op := by
  apply BitVec.eq_of_toNat_eq
  rw [wordNNN_toNat (ha ▸ fieldFamily_lt op), fieldNNN_toNat, ← ha, fieldFamily_eq]
  omega

/-- A word in format F_XNN is rebuilt from its family, its register and its low byte. -/
theorem wordXNN_of_fields {op : Word} {a : Nat} {nn : Byte} (ha : fieldFamily op = a)
    (hnn : (fieldNN op).toNat = nn.toNat) : wordXNN a (fieldX op) nn = op := by
  apply BitVec.eq_of_toNat_eq
  rw [wordXNN_toNat (ha ▸ fieldFamily_lt op), fieldX_val, ← hnn, fieldNN_toNat, ← ha, fieldFamily_eq]
  omega

/-- A word in format F_XYN is rebuilt from its family, its two registers and its low nibble. -/
theorem wordXYN_of_fields {op : Word} {a : Nat} {n : Nibble} (ha : fieldFamily op = a)
    (hn : (fieldN op).toNat = n.toNat) : wordXYN a (fieldX op) (fieldY op) n = op := by
  apply BitVec.eq_of_toNat_eq
  rw [wordXYN_toNat (ha ▸ fieldFamily_lt op), fieldX_val, fieldY_val, ← hn, fieldN_toNat, ← ha, fieldFamily_eq]
  omega

/-- What O2 asks of a decoder's answer on the word `op`: an instruction it names is admitted and encodes to `op`. -/
def Decoded.Names (strict : Bool) (op : Word) : Decoded → Prop
  | .inst i => encode i = op ∧ wellFormedWith strict i = true
  | .invalid _ => True

theorem decodeFamily0_names (strict : Bool) (op : Word) : (decodeFamily0 op).Names strict op := by
  unfold decodeFamily0
  split
  next h => exact ⟨BitVec.eq_of_toNat_eq h.symm, rfl⟩
  next =>
    split
    next h => exact ⟨BitVec.eq_of_toNat_eq h.symm, rfl⟩
    next => trivial

theorem decodeFamily8_names (strict : Bool) {op : Word} (hf : fieldFamily op = 0x8) :
    (decodeFamily8 op).Names strict op := by
  unfold decodeFamily8
  split
  case h_10 => trivial
  all_goals exact ⟨wordXYN_of_fields hf ‹_›, rfl⟩

theorem decodeFamilyE_names (strict : Bool) {op : Word} (hf : fieldFamily op = 0xE) :
    (decodeFamilyE op).Names strict op := by
  unfold decodeFamilyE
  split
  case h_3 => trivial
  all_goals exact ⟨wordXNN_of_fields hf ‹_›, rfl⟩

theorem decodeFamilyF_names (strict : Bool) {op : Word} (hf : fieldFamily op = 0xF) :
    (decodeFamilyF op).Names strict op := by
  unfold decodeFamilyF
  split
  case h_10 => trivial
  all_goals exact ⟨wordXNN_of_fields hf ‹_›, rfl⟩

theorem decodeWith_names (strict : Bool) (op : Word) : (decodeWith strict op).Names strict op := by
  unfold decodeWith
  split
  case h_1 => exact decodeFamily0_names strict op
  case h_2 | h_3 | h_11 | h_12 => exact ⟨wordNNN_of_fields ‹_›, rfl⟩
  case h_4 | h_5 | h_7 | h_8 | h_13 => exact ⟨wordXNN_of_fields ‹_› rfl, rfl⟩
  case h_6 | h_10 =>
    split
    next hn => exact ⟨wordXYN_of_fields ‹_› rfl, hn⟩
    next => trivial
  case h_9 => exact decodeFamily8_names strict ‹_›
  case h_14 => exact ⟨wordXYN_of_fields ‹_› rfl, rfl⟩
  case h_15 => exact decodeFamilyE_names strict ‹_›
  case h_16 =>
    have hlt : fieldFamily op < 16 := fieldFamily_lt op
    have hf : fieldFamily op = 0xF := by
      simp only [imp_false] at *
      omega
    exact decodeFamilyF_names strict hf

/-- Settles O2: the fields the decoder takes, with the family and what the second dispatch fixed, make up the word. -/
theorem encodeOfDecodeIsTheWord : Obligations.EncodeOfDecodeIsTheWord := by
  intro strict op i hi
  have names : (decodeWith strict op).Names strict op := decodeWith_names strict op
  rwa [hi] at names

end Sys2Proof
end

section
/-! Words written out in digits: what each family admits (spec/30_encoding.md R62-R67), read off the round trips. -/
namespace Sys2Proof

open Spec

/-! ### Valid words -/

theorem decodeWith_encode {strict : Bool} {i : Instr} (hwf : wellFormedWith strict i = true) :
    decodeWith strict (encode i) = .inst i :=
  decodeOfEncodeIsTheInstruction strict i hwf

/-- Settles O4: each word is the encoding of the instruction named, and no check guards these families. -/
theorem plainFamiliesDecodeEveryWord : Obligations.PlainFamiliesDecodeEveryWord := by
  intro strict nnn x y nn n
  have decodes := decodeOfEncodeIsTheInstruction strict
  exact ⟨decodes (.jp nnn) rfl, decodes (.call nnn) rfl, decodes (.ldI nnn) rfl, decodes (.jpV0 nnn) rfl,
    decodes (.seImm x nn) rfl, decodes (.sneImm x nn) rfl, decodes (.ldImm x nn) rfl, decodes (.addImm x nn) rfl,
    decodes (.rnd x nn) rfl, decodes (.drw x y n) rfl⟩

/-! ### Invalid words -/

/-- Without STRICT_59 every instruction term is admitted. -/
theorem wellFormedWith_false (i : Instr) : wellFormedWith false i = true := by
  cases i <;> rfl

theorem encode_injective : Function.Injective encode := by
  intro i j h
  have hi : decodeWith false (encode i) = .inst i := decodeWith_encode (wellFormedWith_false i)
  have hj : decodeWith false (encode j) = .inst j := decodeWith_encode (wellFormedWith_false j)
  rw [h, hj] at hi
  exact (Decoded.inst.inj hi).symm

/-- The word of an instruction is invalid exactly when the instruction is not admitted. -/
theorem isInvalid_encode_iff (strict : Bool) (i : Instr) :
    IsInvalid strict (encode i) ↔ wellFormedWith strict i = false := by
  constructor
  · rintro ⟨why, hwhy⟩
    by_contra hwf
    rw [decodeWith_encode (Bool.eq_true_of_not_eq_false hwf)] at hwhy
    cases hwhy
  · intro hwf
    cases hd : decodeWith strict (encode i) with
    | invalid why => exact ⟨why, hd⟩
    | inst j =>
      obtain ⟨hword, hj⟩ := encodeOfDecodeIsTheWord strict _ j hd
      rw [encode_injective hword, hwf] at hj
      cases hj

theorem nibble59Ok_eq_false_iff (strict : Bool) (n : Nibble) :
    nibble59Ok strict n = false ↔ strict = true ∧ n ≠ 0 := by
  simp [nibble59Ok]

theorem isInvalid_encode_seReg_iff (strict : Bool) (x y : Reg) (n : Nibble) :
    IsInvalid strict (encode (.seReg x y n)) ↔ strict = true ∧ n ≠ 0 :=
  (isInvalid_encode_iff strict _).trans (nibble59Ok_eq_false_iff strict n)

theorem isInvalid_encode_sneReg_iff (strict : Bool) (x y : Reg) (n : Nibble) :
    IsInvalid strict (encode (.sneReg x y n)) ↔ strict = true ∧ n ≠ 0 :=
  (isInvalid_encode_iff strict _).trans (nibble59Ok_eq_false_iff strict n)

/-- Settles O5: STRICT_59 admits the low nibble 0 alone, and a word of these families is invalid only as the word of an
instruction that is not admitted. -/
theorem familiesFiveAndNineUnderStrict59 : Obligations.FamiliesFiveAndNineUnderStrict59 := by
  intro x y n five nine
  have decodes := decodeOfEncodeIsTheInstruction
  refine ⟨decodes false (.seReg x y n) rfl, decodes false (.sneReg x y n) rfl, ?_⟩
  split
  next hn =>
    subst hn
    exact ⟨decodes true (.seReg x y 0) rfl, decodes true (.sneReg x y 0) rfl⟩
  next hn =>
    exact ⟨(isInvalid_encode_seReg_iff true x y n).mpr ⟨rfl, hn⟩,
      (isInvalid_encode_sneReg_iff true x y n).mpr ⟨rfl, hn⟩⟩

theorem isInvalid_family0 (strict : Bool) {op : Word} (hf : fieldFamily op = 0x0) (hcls : op ≠ 0x00E0)
    (hret : op ≠ 0x00EE) : IsInvalid strict op := by
  have hcls' : op.toNat ≠ 0x00E0 := fun h => hcls (BitVec.eq_of_toNat_eq h)
  have hret' : op.toNat ≠ 0x00EE := fun h => hret (BitVec.eq_of_toNat_eq h)
  exact ⟨.family0, by simp only [decodeWith, hf, decodeFamily0, if_neg hcls', if_neg hret']⟩

/-- Settles O3: two words have an instruction each, and the family's decoder compares with just those two. -/
theorem familyZeroHasTwoWords : Obligations.FamilyZeroHasTwoWords := by
  intro strict
  refine ⟨decodeWith_encode (i := .cls) rfl, decodeWith_encode (i := .ret) rfl, fun op hf => ?_⟩
  exact isInvalid_family0 strict ((fieldFamily_eq op).trans hf)

theorem isInvalid_family8 (strict : Bool) {op : Word} (hf : fieldFamily op = 0x8)
    (hn : (fieldN op).toNat ∉ [0x0, 0x1, 0x2, 0x3, 0x4, 0x5, 0x6, 0x7, 0xE]) : IsInvalid strict op := by
  refine ⟨.family8, ?_⟩
  simp only [decodeWith, hf, decodeFamily8]
  split <;> simp_all

theorem isInvalid_familyE (strict : Bool) {op : Word} (hf : fieldFamily op = 0xE)
    (hnn : (fieldNN op).toNat ∉ [0x9E, 0xA1]) : IsInvalid strict op := by
  refine ⟨.familyE, ?_⟩
  simp only [decodeWith, hf, decodeFamilyE]
  split <;> simp_all

theorem isInvalid_familyF (strict : Bool) {op : Word} (hf : fieldFamily op = 0xF)
    (hnn : (fieldNN op).toNat ∉ [0x07, 0x0A, 0x15, 0x18, 0x1E, 0x29, 0x33, 0x55, 0x65]) : IsInvalid strict op := by
  refine ⟨.familyF, ?_⟩
  simp only [decodeWith, hf, decodeFamilyF]
  split <;> simp_all

/-- Settles O6: an admitted word is the encoding of its instruction, and on any other low nibble or low byte the second
dispatch falls through. -/
theorem secondDispatchOfFamilies8EF : Obligations.SecondDispatchOfFamilies8EF := by
  intro strict x y n nn eight low
  have decodes := decodeOfEncodeIsTheInstruction strict
  refine ⟨?family8, fun hn => ?not8, ⟨decodes (.skp x) rfl, decodes (.sknp x) rfl⟩, fun hnn => ?notE, ?familyF,
    fun hnn => ?notF⟩
  case not8 =>
    exact isInvalid_family8 strict (op := wordXYN 0x8 x y n) (fieldFamily_wordXYN (by decide) x y n)
      (by rwa [fieldN_wordXYN (by decide)])
  case notE =>
    exact isInvalid_familyE strict (op := wordXNN 0xE x nn) (fieldFamily_wordXNN (by decide) x nn)
      (by rwa [fieldNN_wordXNN (by decide)])
  case notF =>
    exact isInvalid_familyF strict (op := wordXNN 0xF x nn) (fieldFamily_wordXNN (by decide) x nn)
      (by rwa [fieldNN_wordXNN (by decide)])
  case family8 =>
    exact ⟨decodes (.ldReg x y) rfl, decodes (.orReg x y) rfl, decodes (.andReg x y) rfl, decodes (.xorReg x y) rfl,
      decodes (.addReg x y) rfl, decodes (.sub x y) rfl, decodes (.shr x y) rfl, decodes (.subn x y) rfl,
      decodes (.shl x y) rfl⟩
  case familyF =>
    exact ⟨decodes (.ldVxDT x) rfl, decodes (.ldVxK x) rfl, decodes (.ldDTVx x) rfl, decodes (.ldSTVx x) rfl,
      decodes (.addI x) rfl, decodes (.ldF x) rfl, decodes (.ldB x) rfl, decodes (.ldMemRegs x) rfl,
      decodes (.ldRegsMem x) rfl⟩

/-- Settles O7: each word is the encoding of the instruction it stands for. -/
theorem wordsOfTheSpecDecode : Obligations.WordsOfTheSpecDecode := by
  have decodes := decodeOfEncodeIsTheInstruction Params.defaults.strict59
  exact ⟨decodes .cls rfl, decodes (.jp 0x234) rfl, decodes (.call 0x206) rfl, decodes (.seImm 0 5) rfl,
    decodes (.sneImm 0 6) rfl, decodes (.seReg 0 1 0) rfl, decodes (.ldImm 0 5) rfl, decodes (.ldImm 1 2) rfl,
    decodes (.addImm 0 2) rfl, decodes (.addReg 0 1) rfl, decodes (.sneReg 0 1 0) rfl, decodes (.ldI 0x300) rfl,
    decodes (.jpV0 0x300) rfl, decodes (.rnd 0 0x0F) rfl, decodes (.drw 1 2 1) rfl, decodes (.skp 0) rfl,
    decodes (.ldVxK 3) rfl, decodes (.ldRegsMem 2) rfl⟩

end Sys2Proof
end


section
/-! The call stack and the instructions on it, case by case on SP (spec/40_control.md R74-R77, R80), and the skips on
two registers (R83, R84). -/
namespace Sys2Proof.Machine

open Spec

/-- A vector after a write at an index of its own bound: the new entry there, the old one elsewhere. -/
theorem getElem_set_fin {α : Type} {n : Nat} (v : Vector α n) (i j : Fin n) (a : α) :
    (v.set i.val a i.isLt)[j] = if i = j then a else v[j] := by
  simp [Vector.getElem_set, Fin.ext_iff]

/-! ### Push and pop at a known slot -/

/-- The state after a push of `w` to slot `k`, which is SP before it. `State.push_eq` ties it to the model. -/
def State.pushed (s : State) (k : Fin 16) (w : Word) : State :=
  { s with stk := s.stk.set k.val w k.isLt, hls := s.hls.set k.val Config.hlDecay k.isLt, sp := k.succ }

/-- The state after a pop of slot `k`, which is SP after it. `State.pop_eq` ties it to the model. -/
def State.popped (s : State) (k : Fin 16) : State :=
  { s with hls := s.hls.set k.val Config.hlDecay k.isLt, sp := k.castSucc }

theorem State.push_eq {s : State} {k : Fin 16} (h : s.sp.val = k.val) (w : Word) : s.push w = .ok (s.pushed k w) := by
  obtain ⟨k, hk⟩ := k
  obtain rfl : s.sp.val = k := h
  obtain ⟨hfull, -⟩ | ⟨_, hpush⟩ := s.push_cases w
  · omega
  · exact hpush

theorem State.push_eq_overflow {s : State} (h : s.sp.val = 16) (w : Word) :
    s.push w = .error (.stackOverflow s.pc) := by
  obtain ⟨_, hpush⟩ | ⟨hlt, -⟩ := s.push_cases w
  · exact hpush
  · omega

theorem State.pop_eq {s : State} {k : Fin 16} (h : s.sp.val = k.val + 1) : s.pop = .ok (s.stk[k], s.popped k) := by
  obtain ⟨hempty, -⟩ | ⟨j, hj, hsp, hpop⟩ := s.pop_cases
  · omega
  · obtain rfl : (⟨j, hj⟩ : Fin 16) = k := Fin.ext (by simp only; omega)
    exact hpop

theorem State.pop_eq_underflow {s : State} (h : s.sp.val = 0) : s.pop = .error (.stackUnderflow s.pc) := by
  obtain ⟨_, hpop⟩ | ⟨_, _, hsp, -⟩ := s.pop_cases
  · exact hpop
  · omega

/-- SP says whether a push overflows or which slot it writes. -/
theorem State.sp_full_or_slot (s : State) : s.sp.val = 16 ∨ ∃ k : Fin 16, s.sp.val = k.val := by
  have hlt : s.sp.val < 17 := s.sp.isLt
  by_cases h : s.sp.val < 16
  · exact .inr ⟨⟨_, h⟩, rfl⟩
  · exact .inl (by omega)

/-- SP says whether a pop underflows or which slot it reads. -/
theorem State.sp_empty_or_slot (s : State) : s.sp.val = 0 ∨ ∃ k : Fin 16, s.sp.val = k.val + 1 := by
  have hlt : s.sp.val < 17 := s.sp.isLt
  by_cases h : s.sp.val = 0
  · exact .inl h
  · exact .inr ⟨⟨s.sp.val - 1, by omega⟩, by simp only; omega⟩

/-! ### CALL and RET -/

theorem exec_call {s : State} {k : Fin 16} (h : s.sp.val = k.val) (nnn : Addr) :
    exec (.call nnn) s = .next ((s.pushed k (trunc12 (s.pc.toNat + 2))).setPc nnn.toNat) := by
  rw [exec, execCall, State.push_eq h]
  rfl

theorem exec_call_overflow {s : State} (h : s.sp.val = 16) (nnn : Addr) :
    exec (.call nnn) s = .fault (.raised (.stackOverflow s.pc)) := by
  rw [exec, execCall, State.push_eq_overflow h]
  rfl

theorem exec_ret {s : State} {k : Fin 16} (h : s.sp.val = k.val + 1) :
    exec .ret s = .next ((s.popped k).setPc s.stk[k].toNat) := by
  rw [exec, execRet, State.pop_eq h]

theorem exec_ret_underflow {s : State} (h : s.sp.val = 0) :
    exec .ret s = .fault (.raised (.stackUnderflow s.pc)) := by
  rw [exec, execRet, State.pop_eq_underflow h]
  rfl

/-- Settles O15: the popped slot is read and marked, and SP alone decides between the two outcomes. -/
theorem returnPopsTheStack : Obligations.ReturnPopsTheStack := by
  intro s
  refine ⟨exec_ret_underflow, fun k hk => ⟨_, exec_ret hk, State.setPc_pc_toNat _ _, rfl, rfl, ?_⟩⟩
  exact (getElem_set_fin s.hls k k _).trans (if_pos rfl)

/-- Settles O16: the slot at SP holds the masked return address, and a 12-bit target needs no mask. -/
theorem callPushesTheReturnAddress : Obligations.CallPushesTheReturnAddress := by
  intro s nnn
  refine ⟨fun h => exec_call_overflow h nnn, fun k hk => ⟨_, exec_call hk nnn, ?_, rfl, ?_, ?_⟩⟩
  · show ((s.stk.set k.val (trunc12 (s.pc.toNat + 2)) k.isLt)[k]).toNat = _
    rw [getElem_set_fin, if_pos rfl, trunc12_toNat]
  · exact (getElem_set_fin s.hls k k _).trans (if_pos rfl)
  · rw [State.setPc_pc_toNat, Nat.mod_eq_of_lt nnn.isLt]

/-- Settles O17: the slot the call wrote is the one the return pops, and the address in it is masked already. -/
theorem callThenReturnGoesPastTheCall : Obligations.CallThenReturnGoesPastTheCall := by
  intro s t u nnn hcall hsp hstk
  obtain hfull | ⟨k, hk⟩ := s.sp_full_or_slot
  · rw [exec_call_overflow hfull] at hcall
    cases hcall
  · rw [exec_call hk] at hcall
    cases hcall
    have hret : u.sp.val = k.val + 1 := congrArg Fin.val hsp
    have hslot : u.stk[k].toNat = (s.pc.toNat + 2) % 4096 := by
      rw [hstk, State.setPc_stk, State.pushed, getElem_set_fin, if_pos rfl, trunc12_toNat]
    refine ⟨_, exec_ret hret, ?_, Fin.ext hk.symm⟩
    rw [PcMoves, State.setPc_pc_toNat, hslot, Nat.mod_mod]

/-! ### The skips on two registers -/

theorem exec_seReg (s : State) (x y : Reg) (n : Nibble) :
    exec (.seReg x y n) s = .next (s.skip (s.v[x] == s.v[y])) := rfl

theorem exec_sneReg (s : State) (x y : Reg) (n : Nibble) :
    exec (.sneReg x y n) s = .next (s.skip (s.v[x] != s.v[y])) := rfl

/-- Settles O20: the two tests, and the words that STRICT_59 does not admit. -/
theorem skipsOnTwoRegisters : Obligations.SkipsOnTwoRegisters := by
  intro s x y n
  exact ⟨⟨_, exec_seReg s x y n, s.skip_pcMoves_of_iff beq_iff_eq⟩,
    ⟨_, exec_sneReg s x y n, s.skip_pcMoves_of_iff_not bne_iff_ne⟩,
    fun strict => isInvalid_encode_seReg_iff strict x y n, fun strict => isInvalid_encode_sneReg_iff strict x y n⟩

end Sys2Proof.Machine
end

section
/-! Logic, arithmetic with a flag, shifts and the random byte (spec/41_alu.md R85-R98). -/
namespace Sys2Proof.Machine

open Spec

/-! ### What each instruction does -/

theorem exec_orReg (s : State) (x y : Reg) : exec (.orReg x y) s = .next (s.setV x (s.v[x] ||| s.v[y])).advance := rfl

theorem exec_andReg (s : State) (x y : Reg) : exec (.andReg x y) s = .next (s.setV x (s.v[x] &&& s.v[y])).advance := rfl

theorem exec_xorReg (s : State) (x y : Reg) : exec (.xorReg x y) s = .next (s.setV x (s.v[x] ^^^ s.v[y])).advance := rfl

theorem exec_addReg (s : State) (x y : Reg) : exec (.addReg x y) s =
    .next (s.setVThenFlag x (trunc8 (s.v[x].toNat + s.v[y].toNat)) (carryFlag s.v[x] s.v[y])).advance := rfl

theorem exec_sub (s : State) (x y : Reg) : exec (.sub x y) s =
    .next (s.setVThenFlag x (trunc8 (s.v[x].toNat + 256 - s.v[y].toNat)) (noBorrowFlag s.v[x] s.v[y])).advance := rfl

theorem exec_subn (s : State) (x y : Reg) : exec (.subn x y) s =
    .next (s.setVThenFlag x (trunc8 (s.v[y].toNat + 256 - s.v[x].toNat)) (noBorrowFlag s.v[y] s.v[x])).advance := rfl

theorem exec_shr (s : State) (x y : Reg) :
    exec (.shr x y) s = .next (s.setVThenFlag x (s.v[x] >>> 1) (shiftRightFlag s.v[x])).advance := rfl

theorem exec_shl (s : State) (x y : Reg) :
    exec (.shl x y) s = .next (s.setVThenFlag x (s.v[x] <<< 1) (shiftLeftFlag s.v[x])).advance := rfl

theorem exec_rnd (s : State) (x : Reg) (nn : Byte) :
    exec (.rnd x nn) s = .next (s.draw8.2.setV x (nn &&& Config.draw8 s.draws)).advance := rfl

/-! ### One register written, bit by bit -/

/-- Settles O23: each result is a bitwise operation on bytes, and Vx is the one register written. -/
theorem bitwiseLogicBitByBit : Obligations.BitwiseLogicBitByBit := by
  intro s x y
  refine ⟨⟨_, exec_orReg s x y, ?or⟩, ⟨_, exec_andReg s x y, ?and⟩, ⟨_, exec_xorReg s x y, ?xor⟩⟩
  case or =>
    obtain ⟨hres, hmark⟩ := s.setV_advance_wrote x (s.v[x] ||| s.v[y])
    exact ⟨fun b _ => by rw [hres, BitVec.getLsbD_or], hmark, s.setV_advance_v_of_ne _, s.setV_advance_pcMoves x _⟩
  case and =>
    obtain ⟨hres, hmark⟩ := s.setV_advance_wrote x (s.v[x] &&& s.v[y])
    exact ⟨fun b _ => by rw [hres, BitVec.getLsbD_and], hmark, s.setV_advance_v_of_ne _, s.setV_advance_pcMoves x _⟩
  case xor =>
    obtain ⟨hres, hmark⟩ := s.setV_advance_wrote x (s.v[x] ^^^ s.v[y])
    exact ⟨fun b _ => by rw [hres, BitVec.getLsbD_xor], hmark, s.setV_advance_v_of_ne _, s.setV_advance_pcMoves x _⟩

/-- Settles O27: the byte drawn is masked, and the two masks named are the bounds of AND. -/
theorem randomIsMaskedDraw : Obligations.RandomIsMaskedDraw := by
  intro s x nn
  have hwrote := s.draw8.2.setV_advance_wrote x (nn &&& Config.draw8 s.draws)
  refine ⟨_, exec_rnd s x nn, hwrote, ?_, ?_, rfl, s.draw8.2.setV_advance_pcMoves x _⟩
  · rintro rfl
    exact hwrote.1.trans BitVec.zero_and
  · rintro rfl
    exact hwrote.1.trans BitVec.allOnes_and

/-! ### A result and then a flag -/

/-- The shared shape of ADD, SUB, SUBN, SHR and SHL: the flag is written last, so the result stays only outside VF
(R85). -/
theorem State.setVThenFlag_advance_wrote (s : State) (x : Reg) (r f : Byte) :
    (x ≠ 15 → (s.setVThenFlag x r f).advance.v[x] = r) ∧ (s.setVThenFlag x r f).advance.hlr[x] = 60 ∧
    Wrote (s.setVThenFlag x r f).advance 15 f ∧ PcMoves s (s.setVThenFlag x r f).advance 2 := by
  refine ⟨fun hx => ?_, ?_, (s.setV x r).setV_advance_wrote 15 f, (s.setV x r).setV_advance_pcMoves 15 f⟩
  · have hvf : vf ≠ x := Ne.symm hx
    rw [State.advance_v, State.setVThenFlag_getElem_v, if_neg hvf, if_pos rfl]
  · rw [State.advance_hlr, State.setVThenFlag_getElem_hlr, if_pos (.inr rfl)]

/-! ### The flags as conditions -/

theorem carryFlag_eq (a b : Byte) : carryFlag a b = if a.toNat + b.toNat > 255 then 1 else 0 := by
  simp only [carryFlag, flagByte, decide_eq_true_eq]

theorem noBorrowFlag_eq (a b : Byte) : noBorrowFlag a b = if a.toNat ≥ b.toNat then 1 else 0 := by
  simp only [noBorrowFlag, flagByte, decide_eq_true_eq]

theorem shiftRightFlag_eq (a : Byte) : shiftRightFlag a = if a.getLsbD 0 then 1 else 0 := by
  revert a; decide

theorem shiftLeftFlag_eq (a : Byte) : shiftLeftFlag a = if a.getLsbD 7 then 1 else 0 := by
  revert a; decide

/-- Adding 256 before subtracting keeps the difference a natural number and does not change it modulo 256. -/
theorem trunc8_sub (a b : Byte) :
    ((trunc8 (a.toNat + 256 - b.toNat)).toNat : Int) = ((a.toNat : Int) - b.toNat) % 256 := by
  have ha : a.toNat < 256 := a.isLt
  have hb : b.toNat < 256 := b.isLt
  rw [trunc8_toNat]
  omega

/-- Settles O24: the truncated sum to Vx and then the carry to VF. -/
theorem addSetsCarry : Obligations.AddSetsCarry := by
  intro s x y
  obtain ⟨hres, hmark, hflag, hpc⟩ :=
    s.setVThenFlag_advance_wrote x (trunc8 (s.v[x].toNat + s.v[y].toNat)) (carryFlag s.v[x] s.v[y])
  exact ⟨_, exec_addReg s x y, fun hx => by rw [hres hx, trunc8_toNat], hmark, carryFlag_eq _ _ ▸ hflag, hpc⟩

/-- Settles O25: SUBN is SUB with the operands exchanged, result and flag alike. -/
theorem subtractionsSetNoBorrow : Obligations.SubtractionsSetNoBorrow := by
  intro s x y
  refine ⟨⟨_, exec_sub s x y, ?sub⟩, ⟨_, exec_subn s x y, ?subn⟩⟩
  case sub =>
    obtain ⟨hres, hmark, hflag, hpc⟩ :=
      s.setVThenFlag_advance_wrote x (trunc8 (s.v[x].toNat + 256 - s.v[y].toNat)) (noBorrowFlag s.v[x] s.v[y])
    exact ⟨fun hx => by rw [hres hx, trunc8_sub], hmark, noBorrowFlag_eq _ _ ▸ hflag, hpc⟩
  case subn =>
    obtain ⟨hres, hmark, hflag, hpc⟩ :=
      s.setVThenFlag_advance_wrote x (trunc8 (s.v[y].toNat + 256 - s.v[x].toNat)) (noBorrowFlag s.v[y] s.v[x])
    exact ⟨fun hx => by rw [hres hx, trunc8_sub], hmark, noBorrowFlag_eq _ _ ▸ hflag, hpc⟩

/-- Settles O26: a shift by one halves or doubles the byte, and the bit that leaves it is the flag. -/
theorem shiftsSetTheBitShiftedOut : Obligations.ShiftsSetTheBitShiftedOut := by
  intro s x y
  refine ⟨⟨_, exec_shr s x y, ?shr⟩, ⟨_, exec_shl s x y, ?shl⟩⟩
  case shr =>
    obtain ⟨hres, hmark, hflag, hpc⟩ := s.setVThenFlag_advance_wrote x (s.v[x] >>> 1) (shiftRightFlag s.v[x])
    have half : (s.v[x] >>> 1).toNat = s.v[x].toNat / 2 := by
      rw [BitVec.toNat_ushiftRight, Nat.shiftRight_eq_div_pow, pow_one]
    exact ⟨fun hx => by rw [hres hx, half], hmark, shiftRightFlag_eq _ ▸ hflag, hpc⟩
  case shl =>
    obtain ⟨hres, hmark, hflag, hpc⟩ := s.setVThenFlag_advance_wrote x (s.v[x] <<< 1) (shiftLeftFlag s.v[x])
    have double : (s.v[x] <<< 1).toNat = s.v[x].toNat * 2 % 256 := by
      rw [BitVec.toNat_shiftLeft, Nat.shiftLeft_eq, pow_one]
    exact ⟨fun hx => by rw [hres hx, double], hmark, shiftLeftFlag_eq _ ▸ hflag, hpc⟩

end Sys2Proof.Machine
end


section
/-! The key latch: the skips on a key and the wait for one (spec/43_input_timers.md R109-R112). -/
namespace Sys2Proof.Machine

open Spec

/-! ### The key operand -/

theorem State.opKey_eq {s : State} {x : Reg} {k : Fin 16} (h : s.v[x].toNat = k.val) : s.opKey x = .ok k := by
  obtain ⟨hbig, -⟩ | ⟨hlt, hkey⟩ := s.opKey_cases x
  · exact absurd (h ▸ hbig) (by omega)
  · exact hkey.trans (congrArg Except.ok (Fin.ext h))

theorem State.opKey_eq_range {s : State} {x : Reg} (h : s.v[x].toNat > 15) :
    s.opKey x = .error (.keyIndexRange s.pc s.v[x]) := by
  obtain ⟨_, hkey⟩ | ⟨hlt, -⟩ := s.opKey_cases x
  · exact hkey
  · exact absurd h (Nat.not_lt.mpr (Nat.le_of_lt_succ hlt))

/-- A byte says whether it is a key number and which. -/
theorem State.key_range_or_key (s : State) (x : Reg) : s.v[x].toNat > 15 ∨ ∃ k : Fin 16, s.v[x].toNat = k.val := by
  by_cases h : s.v[x].toNat < 16
  · exact .inr ⟨⟨_, h⟩, rfl⟩
  · exact .inl (by omega)

/-! ### SKP and SKNP -/

theorem exec_skp {s : State} {x : Reg} {k : Fin 16} (h : s.v[x].toNat = k.val) :
    exec (.skp x) s = .next (s.skip s.key[k]) := by
  rw [exec, execSkp, State.opKey_eq h]

theorem exec_sknp {s : State} {x : Reg} {k : Fin 16} (h : s.v[x].toNat = k.val) :
    exec (.sknp x) s = .next (s.skip (!s.key[k])) := by
  rw [exec, execSknp, State.opKey_eq h]

theorem exec_skp_range {s : State} {x : Reg} (h : s.v[x].toNat > 15) :
    exec (.skp x) s = .fault (.raised (.keyIndexRange s.pc s.v[x])) := by
  rw [exec, execSkp, State.opKey_eq_range h]
  rfl

theorem exec_sknp_range {s : State} {x : Reg} (h : s.v[x].toNat > 15) :
    exec (.sknp x) s = .fault (.raised (.keyIndexRange s.pc s.v[x])) := by
  rw [exec, execSknp, State.opKey_eq_range h]
  rfl

/-- Settles O33: SKP skips on the latch and SKNP on its negation; both share the operand that can be out of range. -/
theorem skipsOnAKey : Obligations.SkipsOnAKey := by
  intro s x
  refine ⟨fun k hk => ⟨⟨_, exec_skp hk, s.skip_pcMoves _⟩, ⟨_, exec_sknp hk, ?_⟩⟩,
    fun h => ⟨exec_skp_range h, exec_sknp_range h⟩⟩
  exact s.skip_pcMoves_of_iff_not (by simp)

/-! ### LD Vx, K -/

theorem leastKeyDown_eq_some {key : Vector Bool 16} {k : Fin 16} (hk : key[k] = true)
    (hleast : ∀ j : Fin 16, j < k → key[j] = false) : leastKeyDown key = some k := by
  rw [leastKeyDown, List.find?_eq_some_iff_getElem]
  refine ⟨hk, k.val, by simp, by simp, fun j hj => ?_⟩
  have hjk : (⟨j, hj.trans k.isLt⟩ : Fin 16) < k := hj
  simpa using hleast _ hjk

theorem exec_ldVxK_none {s : State} (h : leastKeyDown s.key = none) (x : Reg) : exec (.ldVxK x) s = .next s := by
  rw [exec, execLdVxK, h]

theorem exec_ldVxK {s : State} {k : Fin 16} (h : leastKeyDown s.key = some k) (x : Reg) :
    exec (.ldVxK x) s = .next ((s.setV x (trunc8 k.val)).setKey k false).advance := by
  rw [exec, execLdVxK, h]
  rfl

/-- Settles O34: the search in rising order finds the least key down, and a key number fits a byte. -/
theorem waitForKeyTakesTheLeast : Obligations.WaitForKeyTakesTheLeast := by
  intro s x
  refine ⟨fun hnone => exec_ldVxK_none ((leastKeyDown_eq_none s.key).mpr hnone) x, fun k hk hleast => ?_⟩
  obtain ⟨hres, hmark⟩ := s.setV_advance_wrote x (trunc8 k.val)
  have hkey (j : Fin 16) : (s.key.set k.val false k.isLt)[j] = if k = j then false else s.key[j] :=
    getElem_set_fin s.key k j false
  refine ⟨_, exec_ldVxK (leastKeyDown_eq_some hk hleast) x, ?_, hmark, (hkey k).trans (if_pos rfl),
    fun j hj => (hkey j).trans (if_neg hj.symm), s.setV_advance_pcMoves x (trunc8 k.val)⟩
  calc _ = (trunc8 k.val).toNat := congrArg BitVec.toNat hres
    _ = k.val := by rw [trunc8_toNat, Nat.mod_eq_of_lt (k.isLt.trans (by decide))]

end Sys2Proof.Machine
end

section
/-! The address register, BCD and the bulk transfers (spec/44_address_memory.md R119-R125). -/
namespace Sys2Proof.Machine

open Spec

/-! ### The address register -/

theorem exec_ldI (s : State) (nnn : Addr) :
    exec (.ldI nnn) s = .next { s with ireg := trunc16 nnn.toNat }.advance := rfl

theorem exec_addI (s : State) (x : Reg) :
    exec (.addI x) s = .next { s with ireg := trunc16 (s.ireg.toNat + s.v[x].toNat) }.advance := rfl

theorem exec_ldF (s : State) (x : Reg) :
    exec (.ldF x) s = .next { s with ireg := trunc16 (s.v[x].toNat * 5) }.advance := rfl

/-- Settles O38: a 12-bit address is kept whole in the 16-bit I. -/
theorem loadAddressRegister : Obligations.LoadAddressRegister := by
  intro s nnn
  have fits : nnn.toNat < 65536 := nnn.isLt.trans (by decide)
  exact ⟨_, exec_ldI s nnn, (trunc16_toNat _).trans (Nat.mod_eq_of_lt fits), State.advance_pcMoves _⟩

/-- Settles O39: the sum is truncated to I's 16 bits, and five times a byte fits them. -/
theorem addressRegisterArithmetic : Obligations.AddressRegisterArithmetic := by
  intro s x
  have fits : s.v[x].toNat * 5 < 65536 := by
    have hx : s.v[x].toNat < 256 := s.v[x].isLt
    omega
  exact ⟨⟨_, exec_addI s x, trunc16_toNat _, rfl, State.advance_pcMoves _⟩,
    ⟨_, exec_ldF s x, (trunc16_toNat _).trans (Nat.mod_eq_of_lt fits), State.advance_pcMoves _⟩⟩

/-! ### BCD -/

theorem exec_ldB (s : State) (x : Reg) : exec (.ldB x) s =
    .next (((s.writeByte (s.addrI 0) (trunc8 (s.v[x].toNat / 100))).writeByte (s.addrI 1)
      (trunc8 (s.v[x].toNat / 10 % 10))).writeByte (s.addrI 2) (trunc8 (s.v[x].toNat % 10))).advance := rfl

/-- Two addresses up to 4096 apart from I are the same cell only if their offsets are equal. -/
theorem State.addrI_mod_eq_iff (s : State) {j k : Nat} (hj : j < 4096) (hk : k < 4096) :
    s.addrI j % 4096 = s.addrI k % 4096 ↔ j = k := by
  simp only [State.addrI]
  omega

@[simp] theorem State.addrI_writeByte (s : State) (a k : Nat) (b : Byte) : (s.writeByte a b).addrI k = s.addrI k := rfl

@[simp] theorem State.readByte_advance (s : State) (a : Nat) : s.advance.readByte a = s.readByte a := rfl

/-- Settles O40: the three addresses are three different cells, and each digit fits its byte. -/
theorem bcdStoresTheDigits : Obligations.BcdStoresTheDigits := by
  intro s x
  have hx : s.v[x].toNat < 256 := s.v[x].isLt
  have h20 : s.addrI 2 % 4096 ≠ s.addrI 0 % 4096 := by simp only [State.addrI]; omega
  have h10 : s.addrI 1 % 4096 ≠ s.addrI 0 % 4096 := by simp only [State.addrI]; omega
  have h21 : s.addrI 2 % 4096 ≠ s.addrI 1 % 4096 := by simp only [State.addrI]; omega
  refine ⟨_, exec_ldB s x, ?hundreds, ?tens, ?units, rfl, State.advance_pcMoves _⟩
  case hundreds =>
    rw [State.readByte_advance, State.readByte_writeByte, if_neg h20, State.readByte_writeByte, if_neg h10,
      State.readByte_writeByte, if_pos rfl, trunc8_toNat]
    omega
  case tens =>
    rw [State.readByte_advance, State.readByte_writeByte, if_neg h21, State.readByte_writeByte, if_pos rfl,
      trunc8_toNat]
    omega
  case units =>
    rw [State.readByte_advance, State.readByte_writeByte, if_pos rfl, trunc8_toNat]
    omega

/-! ### Bulk transfers -/

/-- The loop of `LD [I], Vx` over a list of registers. `exec_ldMemRegs` ties it to the model. -/
def State.storeRegs (s : State) (regs : List Reg) : State :=
  regs.foldl (fun t k => t.writeByte (t.addrI k.val) (t.getV k)) s

/-- The loop of `LD Vx, [I]` over a list of registers. `exec_ldRegsMem` ties it to the model. -/
def State.loadRegs (s : State) (regs : List Reg) : State :=
  regs.foldl (fun t k => t.setV k (t.readByte (t.addrI k.val))) s

theorem exec_ldMemRegs (s : State) (x : Reg) : exec (.ldMemRegs x) s = .next (s.storeRegs (regsUpTo x)).advance := rfl

theorem exec_ldRegsMem (s : State) (x : Reg) : exec (.ldRegsMem x) s = .next (s.loadRegs (regsUpTo x)).advance := rfl

theorem State.storeRegs_cons (s : State) (k : Reg) (ks : List Reg) :
    s.storeRegs (k :: ks) = (s.writeByte (s.addrI k.val) s.v[k]).storeRegs ks := rfl

theorem State.loadRegs_cons (s : State) (k : Reg) (ks : List Reg) :
    s.loadRegs (k :: ks) = (s.setV k (s.readByte (s.addrI k.val))).loadRegs ks := rfl

/-- A bulk store writes memory only. -/
theorem State.storeRegs_eq (s : State) (regs : List Reg) :
    s.storeRegs regs = { s with memory := (s.storeRegs regs).memory } := by
  induction regs generalizing s with
  | nil => rfl
  | cons k ks ih => rw [State.storeRegs_cons, ih]; rfl

/-- A bulk load writes general registers, with their highlight counters, only. -/
theorem State.loadRegs_eq (s : State) (regs : List Reg) :
    s.loadRegs regs = { s with v := (s.loadRegs regs).v, hlr := (s.loadRegs regs).hlr } := by
  induction regs generalizing s with
  | nil => rfl
  | cons k ks ih => rw [State.loadRegs_cons, ih]; rfl

/-- All a bulk store does to the sixteen bytes from I on; the addresses of two registers are never the same cell. -/
theorem State.readByte_storeRegs (s : State) (regs : List Reg) (j : Reg) :
    (s.storeRegs regs).readByte (s.addrI j.val) = if j ∈ regs then s.v[j] else s.readByte (s.addrI j.val) := by
  induction regs generalizing s with
  | nil => rfl
  | cons k ks ih =>
    have hcell : s.addrI k.val % 4096 = s.addrI j.val % 4096 ↔ k = j := by
      rw [s.addrI_mod_eq_iff (by omega) (by omega), Fin.ext_iff]
    have hread : (s.writeByte (s.addrI k.val) s.v[k]).readByte (s.addrI j.val) =
        if k = j then s.v[k] else s.readByte (s.addrI j.val) := by
      simp only [State.readByte_writeByte, hcell]
    have hrest := ih (s.writeByte (s.addrI k.val) s.v[k])
    rw [State.addrI_writeByte, State.writeByte_v, hread] at hrest
    rw [State.storeRegs_cons, hrest]
    by_cases hks : j ∈ ks
    · simp [hks]
    · obtain rfl | hkj := eq_or_ne k j
      · simp
      · simp [hks, hkj, hkj.symm]

/-- All a bulk load does to a register. -/
theorem State.loadRegs_getElem_v (s : State) (regs : List Reg) (j : Reg) :
    (s.loadRegs regs).v[j] = if j ∈ regs then s.readByte (s.addrI j.val) else s.v[j] := by
  induction regs generalizing s with
  | nil => rfl
  | cons k ks ih =>
    rw [State.loadRegs_cons, ih, State.setV_getElem_v]
    by_cases hks : j ∈ ks
    · simp only [hks, List.mem_cons, or_true, if_true]; rfl
    · obtain rfl | hkj := eq_or_ne k j
      · simp [hks]
      · simp [hks, hkj, hkj.symm]

/-- All a bulk load does to a register's highlight counter. -/
theorem State.loadRegs_getElem_hlr (s : State) (regs : List Reg) (j : Reg) :
    (s.loadRegs regs).hlr[j] = if j ∈ regs then Config.hlDecay else s.hlr[j] := by
  induction regs generalizing s with
  | nil => rfl
  | cons k ks ih =>
    rw [State.loadRegs_cons, ih, State.setV_getElem_hlr]
    obtain rfl | hkj := eq_or_ne k j
    · simp
    · simp [hkj, hkj.symm]

theorem State.storeRegs_advance_pcMoves (s : State) (regs : List Reg) : PcMoves s (s.storeRegs regs).advance 2 := by
  rw [State.storeRegs_eq]
  exact State.advance_pcMoves _

/-- Settles O41: the bytes from I on are the registers of the list V0..Vx. -/
theorem bulkStoreWritesV0ToVx : Obligations.BulkStoreWritesV0ToVx := by
  intro s x
  refine ⟨_, exec_ldMemRegs s x, fun k hk => ?_, ?_, s.storeRegs_advance_pcMoves _⟩
  · rw [State.readByte_advance, State.readByte_storeRegs, if_pos ((mem_regsUpTo x k).mpr hk)]
  · rw [State.advance_ireg, State.storeRegs_eq]

/-- Settles O42: the registers of the list V0..Vx are read from the bytes from I on, and the others kept. -/
theorem bulkLoadReadsV0ToVx : Obligations.BulkLoadReadsV0ToVx := by
  intro s x
  refine ⟨_, exec_ldRegsMem s x, fun k hk => ⟨?_, ?_⟩, fun k hk => ?_, ?_, ?_⟩
  · rw [State.advance_v, State.loadRegs_getElem_v, if_pos ((mem_regsUpTo x k).mpr hk)]
  · rw [State.advance_hlr, State.loadRegs_getElem_hlr, if_pos ((mem_regsUpTo x k).mpr hk)]
  · rw [State.advance_v, State.loadRegs_getElem_v, if_neg (fun h => absurd ((mem_regsUpTo x k).mp h) (not_le.mpr hk))]
  · rw [State.advance_ireg, State.loadRegs_eq]
  · rw [State.loadRegs_eq]
    exact State.advance_pcMoves _

/-- Settles O43: the load reads the addresses the store wrote, since the store left I. -/
theorem bulkLoadReadsBackABulkStore : Obligations.BulkLoadReadsBackABulkStore := by
  intro s t u x hstore hmem hireg
  obtain ⟨t', ht', hstored, hireg', -⟩ := bulkStoreWritesV0ToVx s x
  obtain rfl : t' = t := by simpa [ht'] using hstore
  obtain ⟨w, hw, hloaded, -⟩ := bulkLoadReadsV0ToVx u x
  refine ⟨w, hw, fun k hk => ?_⟩
  calc w.v[k] = u.readByte (u.addrI k.val) := (hloaded k hk).1
    _ = t'.readByte (s.addrI k.val) := by simp only [State.readByte, State.addrI, hmem, hireg, hireg']
    _ = s.v[k] := hstored k hk

end Sys2Proof.Machine
end

section
/-! A canonical memory is the data its reads determine (log 4), and the fetch reads two bytes of it
(spec/20_memory.md R46, R47). -/
namespace Sys2Proof.Machine

/-! ### Listed cells -/

/-- In a list with strictly rising addresses, the first cell at an address is the only one. -/
theorem Memory.mem_iff_lookup {m : Memory} (h : m.Pairwise (fun c d => c.1 < d.1)) (a : Nat) (b : Byte) :
    (a, b) ∈ m ↔ Memory.lookup m a = some b := by
  induction m with
  | nil => simp [Memory.lookup]
  | cons c m ih =>
    obtain ⟨hc, hm⟩ := List.pairwise_cons.mp h
    by_cases hca : c.1 = a
    · have later : (a, b) ∉ m := fun hab => (hc _ hab).ne hca
      simp [Memory.lookup, hca, later, Prod.ext_iff, eq_comm]
    · simp [Memory.lookup, hca, ih hm, Prod.ext_iff, Ne.symm hca]

/-- In a canonical memory a cell is listed exactly where the memory reads as something unlisted addresses do not. -/
theorem Memory.mem_iff_read {m : Memory} (h : Memory.wf m) (a : Nat) (b : Byte) :
    (a, b) ∈ m ↔ a < 4096 ∧ Memory.read m a = b ∧ b ≠ Memory.unlisted a := by
  obtain ⟨hsorted, hcells⟩ := h
  have lookup_iff := Memory.mem_iff_lookup hsorted a
  constructor
  · intro hab
    obtain ⟨hlt, hne⟩ := hcells _ hab
    refine ⟨hlt, ?_, hne⟩
    rw [Memory.read, Nat.mod_eq_of_lt hlt, (lookup_iff b).mp hab]
  · rintro ⟨hlt, hread, hne⟩
    rw [Memory.read, Nat.mod_eq_of_lt hlt] at hread
    rw [lookup_iff]
    cases hl : Memory.lookup m a with
    | none => exact absurd (by simpa [hl] using hread.symm) hne
    | some v => simpa [hl] using hread

theorem Memory.nodup_of_wf {m : Memory} (h : Memory.wf m) : m.Nodup :=
  h.1.imp fun hlt heq => hlt.ne (congrArg Prod.fst heq)

/-- Settles O46: two memories that read alike list the same cells, and a strictly rising list is the list of its
members. -/
theorem canonicalMemoriesAreDeterminedByReads : Obligations.CanonicalMemoriesAreDeterminedByReads := by
  intro m k hm hk hread
  have same_cells (c : Host.Cell) : c ∈ m ↔ c ∈ k := by
    obtain ⟨a, b⟩ := c
    rw [Memory.mem_iff_read hm, Memory.mem_iff_read hk]
    exact and_congr_right fun ha => by rw [hread a ha]
  have hperm : m.Perm k := (List.perm_ext_iff_of_nodup (Memory.nodup_of_wf hm) (Memory.nodup_of_wf hk)).mpr same_cells
  exact hperm.eq_of_pairwise (fun c d _ _ hcd hdc => absurd hcd (lt_asymm hdc)) hm.1 hk.1

/-- Settles O8: each of the two byte addresses is masked by the read. -/
theorem fetchIsBigEndianAndWraps : Obligations.FetchIsBigEndianAndWraps := by
  intro s
  rw [State.fetch, Memory.read16_toNat, State.readByte, State.readByte, Memory.read_mod, Nat.mul_comm]

end Sys2Proof.Machine
end


section
/-! The blit's loops against their closed form (spec/42_display.md R100-R103), column by column and then row by row, and
what follows for DRW (R105, R107). -/
namespace Sys2Proof.Machine

open Spec

/-! ### Cells on the torus -/

theorem Framebuffer.getPixel_congr (fb : Framebuffer) {x y p q : Nat} (hx : x % 64 = p % 64) (hy : y % 32 = q % 32) :
    Framebuffer.getPixel fb x y = Framebuffer.getPixel fb p q := by
  simp only [Framebuffer.getPixel, hx, hy]

theorem Framebuffer.ext_getPixel {f g : Framebuffer}
    (h : ∀ p q : Nat, Framebuffer.getPixel f p q = Framebuffer.getPixel g p q) : f = g := by
  ext p hp q hq
  simpa [Framebuffer.getPixel, Nat.mod_eq_of_lt hp, Nat.mod_eq_of_lt hq] using h p q

theorem colInBox_eq_iff {x p c : Nat} (hc : c < 64) : colInBox x p = c ↔ (x + c) % 64 = p % 64 := by
  unfold colInBox
  omega

theorem rowInBox_eq_iff {y q r : Nat} (hr : r < 32) : rowInBox y q = r ↔ (y + r) % 32 = q % 32 := by
  unfold rowInBox
  omega

theorem colInBox_add {x c : Nat} (hc : c < 64) : colInBox x (x + c) = c := (colInBox_eq_iff hc).mpr rfl

theorem rowInBox_add {y r : Nat} (hr : r < 32) : rowInBox y (y + r) = r := (rowInBox_eq_iff hr).mpr rfl

/-! ### The first columns of one row -/

/-- Whether a set cell under the sprite's bit `b` counts as a collision (R102). -/
def ScopeCounts (scope : CollisionScope) (b : Bool) : Prop := scope = .wholeBox ∨ b = true

/-- The first `k` columns of a row of the blit. `blitRow_eq` ties it to the model. -/
def blitCols (scope : CollisionScope) (x y : Nat) (row : Byte) (k : Nat) (acc : Framebuffer × Bool) :
    Framebuffer × Bool :=
  (List.range k).foldl (fun acc c => blitCell scope (x + c) y (row.getLsbD (7 - c)) acc) acc

theorem blitRow_eq (scope : CollisionScope) (x y : Nat) (row : Byte) (acc : Framebuffer × Bool) :
    blitRow scope x y row acc = blitCols scope x y row 8 acc := rfl

theorem blitCols_succ (scope : CollisionScope) (x y : Nat) (row : Byte) (k : Nat) (acc : Framebuffer × Bool) :
    blitCols scope x y row (k + 1) acc =
      blitCell scope (x + k) y (row.getLsbD (7 - k)) (blitCols scope x y row k acc) := by
  simp [blitCols, List.range_succ]

/-- The bit that the first `k` columns of a row put on cell (p, q). -/
def colsBit (x y : Nat) (row : Byte) (k p q : Nat) : Bool :=
  decide (colInBox x p < k) && decide (y % 32 = q % 32) && row.getLsbD (7 - colInBox x p)

theorem blitCell_collided_iff (scope : CollisionScope) (x y : Nat) (b : Bool) (acc : Framebuffer × Bool) :
    (blitCell scope x y b acc).2 = true ↔
      acc.2 = true ∨ (ScopeCounts scope b ∧ Framebuffer.getPixel acc.1 x y = true) := by
  rw [blitCell_collided]
  cases scope <;> simp [ScopeCounts]

theorem blitCols_getPixel (scope : CollisionScope) (x y : Nat) (row : Byte) {k : Nat} (hk : k ≤ 8)
    (acc : Framebuffer × Bool) (p q : Nat) :
    Framebuffer.getPixel (blitCols scope x y row k acc).1 p q =
      (Framebuffer.getPixel acc.1 p q ^^ colsBit x y row k p q) := by
  induction k generalizing p q with
  | zero => simp [blitCols, colsBit]
  | succ k ih =>
    have hk' : k ≤ 8 := Nat.le_of_succ_le hk
    have hcol : colInBox x p = k ↔ (x + k) % 64 = p % 64 := colInBox_eq_iff (by omega)
    rw [blitCols_succ, blitCell_getPixel, ih hk', ih hk']
    by_cases hcell : (x + k) % 64 = p % 64 ∧ y % 32 = q % 32
    · have hp : colInBox x p = k := hcol.mpr hcell.1
      rw [if_pos hcell, Framebuffer.getPixel_congr acc.1 hcell.1 hcell.2]
      simp [colsBit, hp, hcell.2, colInBox_add (show k < 64 by omega)]
    · rw [if_neg hcell]
      by_cases hq : y % 32 = q % 32
      · have hp : colInBox x p ≠ k := fun h => hcell ⟨hcol.mp h, hq⟩
        have hlt : colInBox x p < k + 1 ↔ colInBox x p < k := by omega
        simp [colsBit, hlt]
      · simp [colsBit, hq]

theorem blitCols_collided_iff (scope : CollisionScope) (x y : Nat) (row : Byte) {k : Nat} (hk : k ≤ 8)
    (acc : Framebuffer × Bool) :
    (blitCols scope x y row k acc).2 = true ↔ acc.2 = true ∨ ∃ c < k,
      ScopeCounts scope (row.getLsbD (7 - c)) ∧ Framebuffer.getPixel acc.1 (x + c) y = true := by
  induction k with
  | zero => simp [blitCols]
  | succ k ih =>
    have hk' : k ≤ 8 := Nat.le_of_succ_le hk
    have untouched : Framebuffer.getPixel (blitCols scope x y row k acc).1 (x + k) y =
        Framebuffer.getPixel acc.1 (x + k) y := by
      simp [blitCols_getPixel scope x y row hk', colsBit, colInBox_add (show k < 64 by omega)]
    rw [blitCols_succ, blitCell_collided_iff, ih hk', untouched, Nat.exists_lt_succ_right, or_assoc]

/-! ### The first rows -/

theorem blitWith_zero (scope : CollisionScope) (m : Memory) (x y a : Nat) (fb : Framebuffer) :
    blitWith scope m x y a 0 fb = (fb, false) := rfl

theorem blitWith_succ (scope : CollisionScope) (m : Memory) (x y a n : Nat) (fb : Framebuffer) :
    blitWith scope m x y a (n + 1) fb =
      blitCols scope x (y + n) (Memory.read m (a + n)) 8 (blitWith scope m x y a n fb) := by
  simp [blitWith, List.range_succ, blitRow_eq]

theorem spriteBit_succ (m : Memory) (x y a p q : Nat) {n : Nat} (hn : n < 32) :
    spriteBit m x y a (n + 1) p q =
      (spriteBit m x y a n p q ^^ colsBit x (y + n) (Memory.read m (a + n)) 8 p q) := by
  have hrow : rowInBox y q = n ↔ (y + n) % 32 = q % 32 := rowInBox_eq_iff hn
  by_cases hq : rowInBox y q = n
  · simp [spriteBit, colsBit, hq, hrow.mp hq]
  · have hlt : rowInBox y q < n + 1 ↔ rowInBox y q < n := by omega
    simp [spriteBit, colsBit, mt hrow.mpr hq, hlt]

theorem blitWith_getPixel (scope : CollisionScope) (m : Memory) (x y a : Nat) (fb : Framebuffer) {n : Nat} (hn : n ≤ 15)
    (p q : Nat) :
    Framebuffer.getPixel (blitWith scope m x y a n fb).1 p q =
      (Framebuffer.getPixel fb p q ^^ spriteBit m x y a n p q) := by
  induction n with
  | zero => simp [blitWith_zero, spriteBit]
  | succ n ih =>
    rw [blitWith_succ, blitCols_getPixel _ _ _ _ le_rfl, ih (by omega), spriteBit_succ m x y a p q (by omega),
      Bool.xor_assoc]

theorem blitWith_collided_iff (scope : CollisionScope) (m : Memory) (x y a : Nat) (fb : Framebuffer) {n : Nat}
    (hn : n ≤ 15) :
    (blitWith scope m x y a n fb).2 = true ↔ ∃ r < n, ∃ c < 8,
      ScopeCounts scope ((Memory.read m (a + r)).getLsbD (7 - c)) ∧ Framebuffer.getPixel fb (x + c) (y + r) = true := by
  induction n with
  | zero => simp [blitWith_zero]
  | succ n ih =>
    have untouched (c : Nat) : Framebuffer.getPixel (blitWith scope m x y a n fb).1 (x + c) (y + n) =
        Framebuffer.getPixel fb (x + c) (y + n) := by
      simp [blitWith_getPixel scope m x y a fb (show n ≤ 15 by omega), spriteBit, rowInBox_add (show n < 32 by omega)]
    simp only [blitWith_succ, blitCols_collided_iff _ _ _ _ le_rfl, ih (by omega), untouched, Nat.exists_lt_succ_right]

/-- Settles O29: no cell of the box is met twice, since its 8 columns and at most 15 rows are fewer than the torus
has. -/
theorem blitXorsItsBoxOnTheTorus : Obligations.BlitXorsItsBoxOnTheTorus := by
  intro scope m x y a n fb hn
  refine ⟨blitWith_getPixel scope m x y a fb hn, (blitWith_collided_iff scope m x y a fb hn).trans ?_⟩
  exact exists_congr fun r => by simp only [ScopeCounts, exists_and_left]

/-! ### DRW -/

/-- Whether a DRW collides: a cell of its box that counts was set before it. -/
theorem State.drwBlit_collided_iff (s : State) (x y : Reg) (n : Nibble) :
    (s.drwBlit x y n).2 = true ↔ ∃ r < n.toNat, ∃ c < 8,
      ScopeCounts s.params.collisionScope ((s.readByte (s.addrI r)).getLsbD (7 - c)) ∧
      Framebuffer.getPixel s.fb (s.v[x].toNat + c) (s.v[y].toNat + r) = true :=
  blitWith_collided_iff _ _ _ _ _ _ (Nat.le_of_lt_succ n.isLt)

theorem State.drwBlit_getPixel (s : State) (x y : Reg) (n : Nibble) (p q : Nat) :
    Framebuffer.getPixel (s.drwBlit x y n).1 p q = (Framebuffer.getPixel s.fb p q ^^
      spriteBit s.memory s.v[x].toNat s.v[y].toNat s.ireg.toNat n.toNat p q) :=
  blitWith_getPixel _ _ _ _ _ _ (Nat.le_of_lt_succ n.isLt) p q

/-- The state after a DRW, with the flag as a condition on its blit. -/
theorem exec_drw_completes (s : State) (x y : Reg) (n : Nibble) : Completes (.drw x y n) s fun t =>
    t.fb = (s.drwBlit x y n).1 ∧ t.v[(15 : Reg)] = if (s.drwBlit x y n).2 then 1 else 0 := by
  obtain ⟨hflag, -⟩ :=
    State.setV_advance_wrote { s with fb := (s.drwBlit x y n).1 } 15 (if (s.drwBlit x y n).2 then 1 else 0)
  exact ⟨_, exec_drw s x y n, rfl, hflag⟩

theorem flag_eq_one_iff (b : Bool) : (if b then 1 else 0 : Byte) = 1 ↔ b = true := by
  cases b <;> simp

theorem flag_eq_zero_iff (b : Bool) : (if b then 1 else 0 : Byte) = 0 ↔ ¬ b = true := by
  cases b <;> simp

/-- Settles O32: each clause says whether some cell of the box counts and was set. -/
theorem drawOntoAClearOrASetBox : Obligations.DrawOntoAClearOrASetBox := by
  intro s x y n bit old
  obtain ⟨t, ht, -, hflag⟩ := exec_drw_completes s x y n
  have collided_iff : (s.drwBlit x y n).2 = true ↔
      ∃ r < n.toNat, ∃ c < 8, ScopeCounts s.params.collisionScope (bit r c) ∧ old r c = true :=
    s.drwBlit_collided_iff x y n
  refine ⟨t, ht, fun hclear => ?clear, fun hscope hset => ?wholeBox, fun hset => ?setBit, fun hscope hclear => ?setBits⟩
  case clear =>
    rw [hflag, flag_eq_zero_iff, collided_iff]
    rintro ⟨r, hr, c, hc, -, hold⟩
    simp [hclear r hr c hc] at hold
  case wholeBox =>
    obtain ⟨r, hr, c, hc, hold⟩ := hset
    rw [hflag, flag_eq_one_iff, collided_iff]
    exact ⟨r, hr, c, hc, .inl hscope, hold⟩
  case setBit =>
    obtain ⟨r, hr, c, hc, hbit, hold⟩ := hset
    rw [hflag, flag_eq_one_iff, collided_iff]
    exact ⟨r, hr, c, hc, .inr hbit, hold⟩
  case setBits =>
    rw [hflag, flag_eq_zero_iff, collided_iff]
    rintro ⟨r, hr, c, hc, hcounts, hold⟩
    obtain hwhole | hbit := hcounts
    · simp [hscope] at hwhole
    · simp [hclear r hr c hc hbit] at hold

/-- Outside its rows a sprite has no bit, so only the bytes of its rows matter. -/
theorem spriteBit_congr {m k : Memory} {a n : Nat} (h : ∀ r < n, Memory.read m (a + r) = Memory.read k (a + r))
    (x y p q : Nat) : spriteBit m x y a n p q = spriteBit k x y a n p q := by
  unfold spriteBit
  by_cases hr : rowInBox y q < n
  · rw [h _ hr]
  · simp [hr]

/-- The sprite's bit on a cell given by its row and column in the box. -/
theorem spriteBit_in_box (m : Memory) (x y a : Nat) {n r c : Nat} (hr : r < n) (hn : n ≤ 15) (hc : c < 8) :
    spriteBit m x y a n (x + c) (y + r) = (Memory.read m (a + r)).getLsbD (7 - c) := by
  simp [spriteBit, colInBox_add (show c < 64 by omega), rowInBox_add (show r < 32 by omega), hr, hc]

/-- Settles O31: the two drawings XOR the same bits, so the second one restores every cell; it collides on what the
first one left set, the old cell XOR the sprite's bit. -/
theorem drawTwiceRestores : Obligations.DrawTwiceRestores := by
  intro s t u x y n hst hfb hx hy hireg hbytes bit old
  obtain ⟨t', ht', htfb, -⟩ := exec_drw_completes s x y n
  obtain rfl : t' = t := by simpa [ht'] using hst
  obtain ⟨w, hw, hwfb, hflag⟩ := exec_drw_completes u x y n
  have hufb (p q : Nat) : Framebuffer.getPixel u.fb p q = (Framebuffer.getPixel s.fb p q ^^
      spriteBit s.memory s.v[x].toNat s.v[y].toNat s.ireg.toNat n.toNat p q) := by
    rw [hfb, htfb, s.drwBlit_getPixel]
  have hrows : ∀ r < n.toNat, Memory.read u.memory (s.ireg.toNat + r) = Memory.read s.memory (s.ireg.toNat + r) := by
    intro r hr
    simpa only [State.readByte, State.addrI, hireg] using hbytes r hr
  have restored : w.fb = s.fb := by
    refine Framebuffer.ext_getPixel fun p q => ?_
    rw [hwfb, u.drwBlit_getPixel, hx, hy, hireg, spriteBit_congr hrows, hufb, Bool.xor_assoc, Bool.xor_self,
      Bool.xor_false]
  have left_set {r c : Nat} (hr : r < n.toNat) (hc : c < 8) :
      Framebuffer.getPixel u.fb (u.v[x].toNat + c) (u.v[y].toNat + r) = (old r c ^^ bit r c) := by
    rw [hx, hy, hufb, spriteBit_in_box _ _ _ _ hr (Nat.le_of_lt_succ n.isLt) hc]
    rfl
  have second_flag : w.v[(15 : Reg)] = 1 ↔ ∃ r c : Nat, r < n.toNat ∧ c < 8 ∧
      (u.params.collisionScope = .wholeBox ∨ bit r c = true) ∧ (old r c ^^ bit r c) = true := by
    rw [hflag, flag_eq_one_iff, u.drwBlit_collided_iff]
    constructor
    · rintro ⟨r, hr, c, hc, hcounts, hset⟩
      rw [hbytes r hr] at hcounts
      exact ⟨r, c, hr, hc, hcounts, left_set hr hc ▸ hset⟩
    · rintro ⟨r, c, hr, hc, hcounts, hset⟩
      refine ⟨r, hr, c, hc, ?_, (left_set hr hc).trans hset⟩
      rwa [hbytes r hr]
  refine ⟨w, hw, restored, second_flag, ?_⟩
  rintro ⟨r, c, hr, hc, hbit, hold⟩
  exact second_flag.mpr ⟨r, c, hr, hc, .inr hbit, by rw [hbit, hold]; rfl⟩

end Sys2Proof.Machine
end


section
/-! When a step is fatal and what a fatal step and a fatal status leave (spec/60_exceptions.md R126-R130), and the
parked machine (spec/70_reset_and_hazards.md R150). -/
namespace Sys2Proof.Machine

open Spec

/-! ### The instructions that can raise -/

/-- An instruction raises in three cases only: CALL on a full stack, RET on an empty one, and a key skip on a byte that
is no key number. -/
theorem exec_raised_iff (i : Instr) (s : State) (c : Fatal) : exec i s = .fault (.raised c) ↔
    ((∃ nnn, i = .call nnn) ∧ s.sp.val = 16 ∧ c = .stackOverflow s.pc) ∨
    (i = .ret ∧ s.sp.val = 0 ∧ c = .stackUnderflow s.pc) ∨
    (∃ x, (i = .skp x ∨ i = .sknp x) ∧ s.v[x].toNat > 15 ∧ c = .keyIndexRange s.pc s.v[x]) := by
  cases i with
  | call nnn =>
    obtain hfull | ⟨k, hk⟩ := s.sp_full_or_slot
    · simp [exec_call_overflow hfull, hfull, eq_comm]
    · have hlt : s.sp.val ≠ 16 := by omega
      simp [exec_call hk, hlt]
  | ret =>
    obtain hempty | ⟨k, hk⟩ := s.sp_empty_or_slot
    · simp [exec_ret_underflow hempty, hempty, eq_comm]
    · simp [exec_ret hk, hk]
  | skp x =>
    obtain hbig | ⟨k, hk⟩ := s.key_range_or_key x
    · have hgt : 15 < s.v[x.val].toNat := hbig
      simp [exec_skp_range hbig, hgt, eq_comm]
    · have hle : s.v[x.val].toNat ≤ 15 := hk.trans_le (Nat.le_of_lt_succ k.isLt)
      simp [exec_skp hk, not_lt.mpr hle]
  | sknp x =>
    obtain hbig | ⟨k, hk⟩ := s.key_range_or_key x
    · have hgt : 15 < s.v[x.val].toNat := hbig
      simp [exec_sknp_range hbig, hgt, eq_comm]
    · have hle : s.v[x.val].toNat ≤ 15 := hk.trans_le (Nat.le_of_lt_succ k.isLt)
      simp [exec_sknp hk, not_lt.mpr hle]
  | ldVxK x =>
    cases hkey : leastKeyDown s.key with
    | none => simp [exec_ldVxK_none hkey]
    | some k => simp [exec_ldVxK hkey]
  | _ => exact iff_of_false (exec_ne_fault_of_next rfl _) (by simp)

/-- Settles O12: an invalid word raises before anything is executed, and an instruction raises in its three cases. -/
theorem fatalConditionsAreExactlyFour : Obligations.FatalConditionsAreExactlyFour := by
  intro s hs
  refine ⟨fun c => ?raised, fun c => ?notTaken, fun r => ?refused⟩
  case raised =>
    cases hd : s.decoded with
    | invalid why =>
      rw [step_of_decoded_invalid hs hd]
      constructor
      · rintro ⟨⟩
        exact .inl ⟨⟨why, rfl⟩, rfl, rfl⟩
      · rintro (⟨-, rfl, -⟩ | ⟨⟨_, ⟨⟩⟩, -⟩ | ⟨⟨⟩, -⟩ | ⟨_, ⟨⟨⟩⟩ | ⟨⟨⟩⟩, -⟩)
        rfl
    | inst i =>
      rw [step_of_decoded_inst hs hd, exec_raised_iff]
      constructor
      · rintro (⟨⟨nnn, rfl⟩, hsp, rfl⟩ | ⟨rfl, hsp, rfl⟩ | ⟨x, hi, hx, rfl⟩)
        · exact .inr (.inl ⟨⟨nnn, rfl⟩, hsp, rfl, rfl⟩)
        · exact .inr (.inr (.inl ⟨rfl, hsp, rfl, rfl⟩))
        · exact .inr (.inr (.inr ⟨x, hi.imp (congrArg _) (congrArg _), hx, rfl, rfl⟩))
      · rintro (⟨⟨_, ⟨⟩⟩, -⟩ | ⟨⟨nnn, hi⟩, hsp, hc, -⟩ | ⟨hi, hsp, hc, -⟩ | ⟨x, hi, hx, hc, -⟩)
        · exact .inl ⟨⟨nnn, Decoded.inst.inj hi⟩, hsp, hc⟩
        · exact .inr (.inl ⟨Decoded.inst.inj hi, hsp, hc⟩)
        · exact .inr (.inr ⟨x, hi.imp Decoded.inst.inj Decoded.inst.inj, hx, hc⟩)
  case notTaken => obtain ⟨t, ht⟩ | ⟨d, hd⟩ := step_next_or_raised hs <;> simp [*]
  case refused => obtain ⟨t, ht⟩ | ⟨d, hd⟩ := step_next_or_raised hs <;> simp [*]

/-! ### The fatal step and the fatal status -/

theorem transact_step_of_next {s t : State} (h : step s = .next t) : transact .step s = (t, .done) := by
  simp only [transact, State.stepEvent, h]

theorem transact_step_of_raised {s : State} {c : Fatal} (h : step s = .fault (.raised c)) :
    transact .step s = (s.enterFatal c, .fatal c) := by
  simp only [transact, State.stepEvent, h]

/-- Settles O11: the transaction writes the status of the state before the step and nothing else. -/
theorem fatalStepChangesOnlyTheStatus : Obligations.FatalStepChangesOnlyTheStatus := by
  intro s c h
  rw [transact_step_of_raised h]
  exact ⟨rfl, rfl, rfl⟩

theorem step_of_fatal {s : State} {c : Fatal} (h : s.status = .fatal c) : step s = .fault (.alreadyFatal c) := by
  rw [step, h]

theorem transact_step_of_fatal {s : State} {c : Fatal} (h : s.status = .fatal c) :
    transact .step s = (s, .notTaken) := by
  simp only [transact, State.stepEvent, step_of_fatal h]

theorem transact_tick_of_fatal {s : State} {c : Fatal} (h : s.status = .fatal c) :
    transact .tick s = (s, .notTaken) := by
  simp only [transact, State.tickEvent, h]

/-- Of the transactions, only a reset leaves the status Fatal. -/
theorem transact_status_of_fatal {s : State} {c : Fatal} (h : s.status = .fatal c) {e : Event}
    (he : isReset e = false) : (transact e s).1.status = .fatal c := by
  cases e with
  | reset image => cases he
  | step => rwa [transact_step_of_fatal h]
  | tick => rwa [transact_tick_of_fatal h]
  | decay => exact s.decay_status.trans h
  | setKey k b => exact (s.setKey_status k b).trans h
  | read q => exact h

theorem runEvents_status_of_fatal {es : List Event} (hes : ∀ e ∈ es, isReset e = false) {s : State} {c : Fatal}
    (h : s.status = .fatal c) : (runEvents es s).status = .fatal c := by
  induction es generalizing s with
  | nil => exact h
  | cons e es ih =>
    obtain ⟨he, hes⟩ := List.forall_mem_cons.mp hes
    exact ih hes (transact_status_of_fatal h he)

/-- Settles O10: no transaction but a reset leaves the status Fatal, so by induction no schedule without one does. -/
theorem fatalStatusIsTerminal : Obligations.FatalStatusIsTerminal := by
  intro s
  exact ⟨fun q => rfl, fun c h => ⟨step_of_fatal h, transact_step_of_fatal h, transact_tick_of_fatal h,
    fun es hes => runEvents_status_of_fatal hes h, fun image => rfl⟩⟩

/-! ### The parked machine -/

/-- A Running machine is parked where it fetches a jump to its own address. -/
theorem State.parked_of_running {s : State} (hs : s.status = .running) (hp : s.parked = true) :
    ∃ nnn : Addr, s.decoded = .inst (.jp nnn) ∧ nnn.toNat = s.pc.toNat := by
  simp only [State.parked, hs] at hp
  split at hp
  next nnn hd => exact ⟨nnn, hd, beq_iff_eq.mp hp⟩
  next => cases hp

theorem State.setPc_eq_self {s : State} {t : Nat} (ht : t = s.pc.toNat) (hlt : t < 4096) : s.setPc t = s := by
  have hpc : trunc12 t = s.pc := BitVec.eq_of_toNat_eq (by rw [trunc12_toNat, Nat.mod_eq_of_lt hlt, ht])
  rw [State.setPc, hpc]

/-- Settles O14: the jump writes the pc it finds there. -/
theorem parkedStepChangesNothing : Obligations.ParkedStepChangesNothing := by
  intro s hs hp
  obtain ⟨nnn, hd, hpc⟩ := State.parked_of_running hs hp
  rw [step_of_decoded_inst hs hd, exec_jp, State.setPc_eq_self hpc nnn.isLt]

end Sys2Proof.Machine
end

section
/-! What an instruction may write, said once for all 34: `exec_writes` breaks a next state into single permitted writes.
The frames (O47 to O52) and the invariant (O57) are then read off one kind of write at a time. -/
namespace Sys2Proof.Machine

open Spec

/-- What each instruction may change besides the pc: for registers the table of spec/10_state.md R15, for the rest the
rule of the instruction. -/
def touches : Instr → State → Touches
  | .cls, _ => { fb := true }
  | .ret, s => { marks := [s.sp.val - 1], sp := true }
  | .call _, s => { slots := [s.sp.val], marks := [s.sp.val], sp := true }
  | .ldI _, _ | .addI _, _ | .ldF _, _ => { ireg := true }
  | .rnd x _, _ => { regs := [x], draws := true }
  | .drw _ _ _, _ => { regs := [15], fb := true }
  | .ldVxK x, s => { regs := [x], keys := (leastKeyDown s.key).toList.map (fun k => k.val) }
  | .ldDTVx _, _ => { dt := true }
  | .ldSTVx _, _ => { st := true }
  | .ldB _, s => { bytes := bytesAtI s 3 }
  | .ldMemRegs x, s => { bytes := bytesAtI s (x.val + 1) }
  | i, _ => { regs := registersWritten i }

/-- `Writes W s t`: the state `t` comes from `s` by writes of the pc and of what `W` lists, one after another. -/
inductive Writes (W : Touches) (s : State) : State → Prop where
  | refl : Writes W s s
  | setPc {t : State} (n : Nat) (h : Writes W s t) : Writes W s (t.setPc n)
  | setV {t : State} {x : Reg} (b : Byte) (hx : x ∈ W.regs) (h : Writes W s t) : Writes W s (t.setV x b)
  | writeByte {t : State} {a : Nat} (b : Byte) (ha : a ∈ W.bytes) (h : Writes W s t) : Writes W s (t.writeByte a b)
  | setSlot {t : State} {k : Fin 16} {w : Word} (hw : w.toNat < 4096) (hk : k.val ∈ W.slots) (h : Writes W s t) :
      Writes W s { t with stk := t.stk.set k.val w k.isLt }
  | markSlot {t : State} {k : Fin 16} (hk : k.val ∈ W.marks) (h : Writes W s t) :
      Writes W s { t with hls := t.hls.set k.val Config.hlDecay k.isLt }
  | setKey {t : State} {k : Fin 16} (b : Bool) (hk : k.val ∈ W.keys) (h : Writes W s t) : Writes W s (t.setKey k b)
  | setSp {t : State} (n : Fin 17) (hW : W.sp = true) (h : Writes W s t) : Writes W s { t with sp := n }
  | setIreg {t : State} (w : Word) (hW : W.ireg = true) (h : Writes W s t) : Writes W s { t with ireg := w }
  | setDt {t : State} (b : Byte) (hW : W.dt = true) (h : Writes W s t) : Writes W s { t with dt := b }
  | setSt {t : State} (b : Byte) (hW : W.st = true) (h : Writes W s t) : Writes W s { t with st := b }
  | setFb {t : State} (fb : Framebuffer) (hW : W.fb = true) (h : Writes W s t) : Writes W s { t with fb := fb }
  | draw8 {t : State} (hW : W.draws = true) (h : Writes W s t) : Writes W s t.draw8.2

/-! ### The shared operations as writes -/

section Operations
variable {W : Touches} {s t : State}

theorem Writes.advance (h : Writes W s t) : Writes W s t.advance := h.setPc _

theorem Writes.skip (c : Bool) (h : Writes W s t) : Writes W s (t.skip c) := by
  cases c
  · exact h.setPc _
  · exact h.setPc _

theorem Writes.setVThenFlag {x : Reg} (r f : Byte) (hx : x ∈ W.regs) (hvf : vf ∈ W.regs) (h : Writes W s t) :
    Writes W s (t.setVThenFlag x r f) := (h.setV r hx).setV f hvf

theorem Writes.pushed {k : Fin 16} {w : Word} (hw : w.toNat < 4096) (hslot : k.val ∈ W.slots) (hmark : k.val ∈ W.marks)
    (hsp : W.sp = true) (h : Writes W s t) : Writes W s (t.pushed k w) :=
  ((h.setSlot hw hslot).markSlot hmark).setSp k.succ hsp

theorem Writes.popped {k : Fin 16} (hmark : k.val ∈ W.marks) (hsp : W.sp = true) (h : Writes W s t) :
    Writes W s (t.popped k) :=
  (h.markSlot hmark).setSp k.castSucc hsp

theorem Writes.storeRegs {regs : List Reg} (hregs : ∀ k ∈ regs, t.addrI k.val ∈ W.bytes) (h : Writes W s t) :
    Writes W s (t.storeRegs regs) := by
  induction regs generalizing t with
  | nil => exact h
  | cons k ks ih =>
    obtain ⟨hk, hks⟩ := List.forall_mem_cons.mp hregs
    exact ih hks (h.writeByte _ hk)

theorem Writes.loadRegs {regs : List Reg} (hregs : ∀ k ∈ regs, k ∈ W.regs) (h : Writes W s t) :
    Writes W s (t.loadRegs regs) := by
  induction regs generalizing t with
  | nil => exact h
  | cons k ks ih =>
    obtain ⟨hk, hks⟩ := List.forall_mem_cons.mp hregs
    exact ih hks (h.setV _ hk)

end Operations

theorem mem_bytesAtI {s : State} {k n : Nat} (h : k < n) : s.addrI k ∈ bytesAtI s n :=
  List.mem_map_of_mem (List.mem_range.mpr h)

/-- To know what an instruction wrote it is enough to look at the next state it is known to answer. -/
theorem writes_of_exec {i : Instr} {s t u : State} {W : Touches} (h : exec i s = .next t) (hu : exec i s = .next u)
    (w : Writes W s u) : Writes W s t := by
  obtain rfl : u = t := Host.Outcome.next.inj (hu.symm.trans h)
  exact w

/-- All an instruction does is to write the pc and what `touches` lists for it. -/
theorem exec_writes {i : Instr} {s t : State} (h : exec i s = .next t) : Writes (touches i s) s t := by
  cases i with
  | cls => exact writes_of_exec h (exec_cls s) (Writes.refl.setFb _ rfl).advance
  | ret =>
    obtain hempty | ⟨k, hk⟩ := s.sp_empty_or_slot
    · simp [exec_ret_underflow hempty] at h
    · have hmark : k.val ∈ [s.sp.val - 1] := by simp [hk]
      exact writes_of_exec h (exec_ret hk) ((Writes.refl.popped hmark rfl).setPc _)
  | call nnn =>
    obtain hfull | ⟨k, hk⟩ := s.sp_full_or_slot
    · simp [exec_call_overflow hfull] at h
    · have hslot : k.val ∈ [s.sp.val] := by simp [hk]
      have hmasked : (trunc12 (s.pc.toNat + 2)).toNat < 4096 := trunc12_toNat _ ▸ Nat.mod_lt _ (by decide)
      exact writes_of_exec h (exec_call hk nnn) ((Writes.refl.pushed hmasked hslot hslot rfl).setPc _)
  | jp nnn => exact writes_of_exec h (exec_jp s nnn) (Writes.refl.setPc _)
  | jpV0 nnn => exact writes_of_exec h (exec_jpV0 s nnn) (Writes.refl.setPc _)
  | seImm x nn => exact writes_of_exec h (exec_seImm s x nn) (Writes.refl.skip _)
  | sneImm x nn => exact writes_of_exec h (exec_sneImm s x nn) (Writes.refl.skip _)
  | seReg x y n => exact writes_of_exec h (exec_seReg s x y n) (Writes.refl.skip _)
  | sneReg x y n => exact writes_of_exec h (exec_sneReg s x y n) (Writes.refl.skip _)
  | skp x =>
    obtain hbig | ⟨k, hk⟩ := s.key_range_or_key x
    · simp [exec_skp_range hbig] at h
    · exact writes_of_exec h (exec_skp hk) (Writes.refl.skip _)
  | sknp x =>
    obtain hbig | ⟨k, hk⟩ := s.key_range_or_key x
    · simp [exec_sknp_range hbig] at h
    · exact writes_of_exec h (exec_sknp hk) (Writes.refl.skip _)
  | ldImm x | addImm x | ldReg x | orReg x | andReg x | xorReg x | ldVxDT x =>
    have hx : x ∈ [x] := List.mem_singleton_self x
    exact writes_of_exec h rfl (Writes.refl.setV _ hx).advance
  | addReg x | sub x | shr x | subn x | shl x =>
    have hx : x ∈ [x, 15] := List.mem_cons_self
    have hvf : vf ∈ [x, 15] := List.mem_cons_of_mem x List.mem_cons_self
    exact writes_of_exec h rfl (Writes.refl.setVThenFlag _ _ hx hvf).advance
  | rnd x nn =>
    have hx : x ∈ [x] := List.mem_singleton_self x
    exact writes_of_exec h (exec_rnd s x nn) ((Writes.refl.draw8 rfl).setV _ hx).advance
  | drw x y n =>
    have hvf : vf ∈ [15] := List.mem_cons_self
    exact writes_of_exec h (exec_drw s x y n) ((Writes.refl.setFb _ rfl).setV _ hvf).advance
  | ldVxK x =>
    cases hkey : leastKeyDown s.key with
    | none => exact writes_of_exec h (exec_ldVxK_none hkey x) .refl
    | some k =>
      have hx : x ∈ [x] := List.mem_singleton_self x
      have hk : k.val ∈ (touches (.ldVxK x) s).keys := by simp [touches, hkey]
      exact writes_of_exec h (exec_ldVxK hkey x) ((Writes.refl.setV _ hx).setKey _ hk).advance
  | ldDTVx x => exact writes_of_exec h (exec_ldDTVx s x) (Writes.refl.setDt _ rfl).advance
  | ldSTVx x => exact writes_of_exec h (exec_ldSTVx s x) (Writes.refl.setSt _ rfl).advance
  | ldI nnn => exact writes_of_exec h (exec_ldI s nnn) (Writes.refl.setIreg _ rfl).advance
  | addI x => exact writes_of_exec h (exec_addI s x) (Writes.refl.setIreg _ rfl).advance
  | ldF x => exact writes_of_exec h (exec_ldF s x) (Writes.refl.setIreg _ rfl).advance
  | ldB x =>
    have hbytes {k : Nat} (hk : k < 3) : s.addrI k ∈ bytesAtI s 3 := mem_bytesAtI hk
    exact writes_of_exec h (exec_ldB s x) (((Writes.refl.writeByte _ (hbytes (by decide))).writeByte _
      (hbytes (by decide))).writeByte _ (hbytes (by decide))).advance
  | ldMemRegs x =>
    have hbytes : ∀ k ∈ regsUpTo x, s.addrI k.val ∈ bytesAtI s (x.val + 1) :=
      fun k hk => mem_bytesAtI (Nat.lt_succ_of_le ((mem_regsUpTo x k).mp hk))
    exact writes_of_exec h (exec_ldMemRegs s x) (Writes.refl.storeRegs hbytes).advance
  | ldRegsMem x => exact writes_of_exec h (exec_ldRegsMem s x) (Writes.refl.loadRegs fun _ hk => hk).advance

/-! ### What writes keep: the frame -/

theorem getElem_set_of_not_mem {α : Type} (v : Vector α 16) {k j : Fin 16} (a : α) {l : List Nat} (hk : k.val ∈ l)
    (hj : j.val ∉ l) : (v.set k.val a k.isLt)[j] = v[j] := by
  have hkj : k ≠ j := by
    rintro rfl
    exact hj hk
  rw [getElem_set_fin, if_neg hkj]

theorem frame_refl (W : Touches) (s : State) : Frame W s s where
  regs _ _ := ⟨rfl, rfl⟩
  bytes _ _ := rfl
  slots _ _ := rfl
  marks _ _ := rfl
  keys _ _ := rfl
  ireg _ := rfl
  sp _ := rfl
  dt _ := rfl
  st _ := rfl
  fb _ := rfl
  draws _ := rfl
  status := rfl
  params := rfl

theorem Writes.frame {W : Touches} {s t : State} (h : Writes W s t) : Frame W s t := by
  induction h with
  | refl => exact frame_refl W s
  | setPc n _ ih => exact { ih with }
  | @setV t x b hx _ ih =>
    refine { ih with regs := fun j hj => ?_ }
    have hxj : x ≠ j := by
      rintro rfl
      exact hj hx
    rw [State.setV_getElem_v, State.setV_getElem_hlr, if_neg hxj, if_neg hxj]
    exact ih.regs j hj
  | writeByte b ha _ ih =>
    refine { ih with bytes := fun c hc => ?_ }
    rw [State.readByte_writeByte, if_neg (hc _ ha).symm, ih.bytes c hc]
  | setSlot _ hk _ ih =>
    exact { ih with slots := fun j hj => (getElem_set_of_not_mem _ _ hk hj).trans (ih.slots j hj) }
  | markSlot hk _ ih =>
    exact { ih with marks := fun j hj => (getElem_set_of_not_mem _ _ hk hj).trans (ih.marks j hj) }
  | setKey b hk _ ih =>
    exact { ih with keys := fun j hj => (getElem_set_of_not_mem _ _ hk hj).trans (ih.keys j hj) }
  | setSp n hW _ ih => exact { ih with sp := fun hno => absurd (hW.symm.trans hno) nofun }
  | setIreg w hW _ ih => exact { ih with ireg := fun hno => absurd (hW.symm.trans hno) nofun }
  | setDt b hW _ ih => exact { ih with dt := fun hno => absurd (hW.symm.trans hno) nofun }
  | setSt b hW _ ih => exact { ih with st := fun hno => absurd (hW.symm.trans hno) nofun }
  | setFb fb hW _ ih => exact { ih with fb := fun hno => absurd (hW.symm.trans hno) nofun }
  | draw8 hW _ ih => exact { ih with draws := fun hno => absurd (hW.symm.trans hno) nofun }

/-- Every instruction keeps what `touches` does not list for it. -/
theorem exec_keeps (i : Instr) : Keeps i (touches i) := fun _ _ h => (exec_writes h).frame

/-- Settles O47: the frame of each of these instructions is its line of `touches`. -/
theorem frameOfControl : Obligations.FrameOfControl := by
  intro x y nn nnn n
  exact ⟨exec_keeps .ret, exec_keeps (.call nnn), exec_keeps (.jp nnn), exec_keeps (.jpV0 nnn),
    exec_keeps (.seImm x nn), exec_keeps (.sneImm x nn), exec_keeps (.seReg x y n), exec_keeps (.sneReg x y n)⟩

/-- Settles O48: the frame of each of these instructions is its line of `touches`. -/
theorem frameOfAlu : Obligations.FrameOfAlu := by
  intro x y nn
  exact ⟨exec_keeps (.ldImm x nn), exec_keeps (.addImm x nn), exec_keeps (.ldReg x y), exec_keeps (.orReg x y),
    exec_keeps (.andReg x y), exec_keeps (.xorReg x y), exec_keeps (.addReg x y), exec_keeps (.sub x y),
    exec_keeps (.shr x y), exec_keeps (.subn x y), exec_keeps (.shl x y), exec_keeps (.rnd x nn)⟩

/-- Settles O49: the frame of each of the two instructions is its line of `touches`. -/
theorem frameOfDisplay : Obligations.FrameOfDisplay := by
  intro x y n
  exact ⟨exec_keeps .cls, exec_keeps (.drw x y n)⟩

/-- Settles O50: the frame of each of these instructions is its line of `touches`. -/
theorem frameOfKeysAndTimers : Obligations.FrameOfKeysAndTimers := by
  intro x
  exact ⟨exec_keeps (.skp x), exec_keeps (.sknp x), exec_keeps (.ldVxK x), exec_keeps (.ldVxDT x),
    exec_keeps (.ldDTVx x), exec_keeps (.ldSTVx x)⟩

/-- Settles O51: the frame of each of these instructions is its line of `touches`. -/
theorem frameOfAddressAndMemory : Obligations.FrameOfAddressAndMemory := by
  intro x nnn
  exact ⟨exec_keeps (.ldI nnn), exec_keeps (.addI x), exec_keeps (.ldF x), exec_keeps (.ldB x),
    exec_keeps (.ldMemRegs x), exec_keeps (.ldRegsMem x)⟩

end Sys2Proof.Machine
end


section
/-! Which instructions write a part of the state (O52), read off `touches` and the frame. -/
namespace Sys2Proof.Machine

open Spec

/-! ### The parts an instruction touches -/

section Touches
variable {i : Instr} {s : State}

theorem touches_regs (i : Instr) (s : State) : (touches i s).regs = registersWritten i := by
  cases i <;> rfl

theorem eq_of_touches_bytes (h : (touches i s).bytes ≠ []) : ∃ x, i = .ldB x ∨ i = .ldMemRegs x := by
  cases i <;> simp_all [touches]

theorem eq_of_touches_fb (h : (touches i s).fb = true) : i = .cls ∨ ∃ x y n, i = .drw x y n := by
  cases i <;> simp_all [touches]

theorem eq_of_touches_keys (h : (touches i s).keys ≠ []) : ∃ x, i = .ldVxK x := by
  cases i <;> simp_all [touches]

theorem eq_of_touches_slots (h : (touches i s).slots ≠ []) : ∃ nnn, i = .call nnn := by
  cases i <;> simp_all [touches]

theorem eq_of_touches_marks (h : (touches i s).marks ≠ []) : i = .ret ∨ ∃ nnn, i = .call nnn := by
  cases i <;> simp_all [touches]

theorem eq_of_touches_sp (h : (touches i s).sp = true) : i = .ret ∨ ∃ nnn, i = .call nnn := by
  cases i <;> simp_all [touches]

theorem eq_of_touches_ireg (h : (touches i s).ireg = true) : (∃ nnn, i = .ldI nnn) ∨ ∃ x, i = .addI x ∨ i = .ldF x := by
  cases i <;> simp_all [touches]

theorem eq_of_touches_dt (h : (touches i s).dt = true) : ∃ x, i = .ldDTVx x := by
  cases i <;> simp_all [touches]

theorem eq_of_touches_st (h : (touches i s).st = true) : ∃ x, i = .ldSTVx x := by
  cases i <;> simp_all [touches]

theorem eq_of_touches_draws (h : (touches i s).draws = true) : ∃ x nn, i = .rnd x nn := by
  cases i <;> simp_all [touches]

end Touches

/-! ### A whole part kept -/

theorem vector_ext_fin {α : Type} {n : Nat} {v w : Vector α n} (h : ∀ j : Fin n, v[j] = w[j]) : v = w :=
  Vector.ext fun j hj => h ⟨j, hj⟩

section Kept
variable {W : Touches} {s t : State}

/-- Memory is kept as data, not only as it reads. -/
theorem Writes.memory_eq (h : Writes W s t) (hW : W.bytes = []) : t.memory = s.memory := by
  induction h with
  | writeByte b ha _ _ => simp [hW] at ha
  | refl => rfl
  | _ => assumption

theorem keys_eq_of_frame (h : Frame W s t) (hW : W.keys = []) : t.key = s.key :=
  vector_ext_fin fun k => h.keys k (by simp [hW])

theorem slots_eq_of_frame (h : Frame W s t) (hW : W.slots = []) : t.stk = s.stk :=
  vector_ext_fin fun j => h.slots j (by simp [hW])

theorem marks_eq_of_frame (h : Frame W s t) (hW : W.marks = []) : t.hls = s.hls :=
  vector_ext_fin fun j => h.marks j (by simp [hW])

end Kept

/-- Settles O52: a part that changed is one the instruction touches, and `touches` has the spec's instructions there. -/
theorem eachPartHasItsOwnWriters : Obligations.EachPartHasItsOwnWriters := by
  intro i s t h
  have hw : Writes (touches i s) s t := exec_writes h
  have hf : Frame (touches i s) s t := hw.frame
  refine ⟨fun hne => eq_of_touches_bytes (mt hw.memory_eq hne),
    fun hne => eq_of_touches_fb (by simpa using mt hf.fb hne),
    fun hne => eq_of_touches_keys (mt (keys_eq_of_frame hf) hne),
    fun hne => eq_of_touches_slots (mt (slots_eq_of_frame hf) hne),
    fun hne => eq_of_touches_sp (by simpa using mt hf.sp hne),
    fun hne => eq_of_touches_ireg (by simpa using mt hf.ireg hne),
    fun hne => eq_of_touches_dt (by simpa using mt hf.dt hne),
    fun hne => eq_of_touches_st (by simpa using mt hf.st hne), fun j hne => ?regs,
    fun hne => eq_of_touches_marks (mt (marks_eq_of_frame hf) hne),
    fun hne => eq_of_touches_draws (by simpa using mt hf.draws hne), hf.status, hf.params⟩
  case regs =>
    by_contra hj
    obtain ⟨hv, hhlr⟩ := hf.regs j (by rwa [touches_regs])
    exact hne.elim (absurd hv) (absurd hhlr)

end Sys2Proof.Machine
end

section
/-! The invariant: every permitted write keeps it, so every step, every transaction and every schedule does. -/
namespace Sys2Proof.Machine

open Spec

/-! ### A step -/

theorem Writes.inv {W : Touches} {s t : State} (h : Writes W s t) (hs : s.Inv) : t.Inv := by
  induction h with
  | refl => exact hs
  | @setPc t n _ ih => exact { ih with pc_lt := (t.setPc_pc_toNat n).trans_lt (Nat.mod_lt n (by decide)) }
  | @setV t x b _ _ ih =>
    refine { ih with hlr_le := fun j => ?_ }
    rw [State.setV_getElem_hlr]
    split
    · exact le_rfl
    · exact ih.hlr_le j
  | writeByte b _ _ ih => exact { ih with memory_wf := Memory.wf_write ih.memory_wf _ _ }
  | @setSlot t k w hw _ _ ih =>
    refine { ih with stk_lt := fun j => ?_ }
    show ((t.stk.set k.val w k.isLt)[j]).toNat < 4096
    rw [getElem_set_fin]
    split
    · exact hw
    · exact ih.stk_lt j
  | @markSlot t k _ _ ih =>
    refine { ih with hls_le := fun j => ?_ }
    show (t.hls.set k.val Config.hlDecay k.isLt)[j] ≤ Config.hlDecay
    rw [getElem_set_fin]
    split
    · exact le_rfl
    · exact ih.hls_le j
  | setKey _ _ _ ih | setSp _ _ _ ih | setIreg _ _ _ ih | setDt _ _ _ ih | setSt _ _ _ ih | setFb _ _ _ ih
  | draw8 _ _ ih =>
    exact { ih with }

/-- Settles O57: a step that answers a next state executed an instruction, and an instruction only makes permitted
writes: of a masked pc, masked return addresses, counters at HL_DECAY and bytes through the canonical write. -/
theorem stepKeepsTheInvariant : Obligations.StepKeepsTheInvariant := by
  intro s t hs hstep
  obtain ⟨-, i, -, hexec⟩ := step_next hstep
  exact (exec_writes hexec).inv hs

/-! ### Reset -/

theorem State.resetWith_inv (p : Params) (draws : Nat) (image : Option (List Byte)) :
    (State.resetWith p draws image).Inv where
  pc_lt := show (0x200 : Word).toNat < 4096 by decide
  stk_lt j := by simp [State.resetWith, State.reset]
  hlr_le i := by simp [State.resetWith, State.reset]
  hls_le j := by simp [State.resetWith, State.reset]
  memory_wf := resetMemory_wf image

/-- Settles O56: the reset state is the one after a reset with no image, and memory with an image is written in
canonical form. -/
theorem invariantHoldsAfterReset : Obligations.InvariantHoldsAfterReset :=
  ⟨State.resetWith_inv Params.defaults 0 none, State.resetWith_inv⟩

/-! ### The other transactions -/

theorem State.enterFatal_inv {s : State} (hs : s.Inv) (c : Fatal) : (s.enterFatal c).Inv := { hs with }

theorem State.tick_inv {s : State} (hs : s.Inv) : s.tick.Inv := { hs with }

theorem State.setKey_inv {s : State} (hs : s.Inv) (k : Fin 16) (b : Bool) : (s.setKey k b).Inv := { hs with }

theorem decayed_le {hl : Vector Nat 16} {bound : Nat} (h : ∀ i : Fin 16, hl[i] ≤ bound) (i : Fin 16) :
    (decayed hl)[i] ≤ bound := by
  rw [decayed_getElem]
  exact (Nat.sub_le _ _).trans (h i)

theorem State.decay_inv {s : State} (hs : s.Inv) : s.decay.Inv where
  pc_lt := by rw [State.decay_pc]; exact hs.pc_lt
  stk_lt := by rw [State.decay_stk]; exact hs.stk_lt
  hlr_le := decayed_le hs.hlr_le
  hls_le := decayed_le hs.hls_le
  memory_wf := by rw [State.decay_memory]; exact hs.memory_wf

theorem transact_step_inv {s : State} (hs : s.Inv) : (transact .step s).1.Inv := by
  cases hstatus : s.status with
  | fatal c => rwa [transact_step_of_fatal hstatus]
  | running =>
    obtain ⟨t, ht⟩ | ⟨c, hc⟩ := step_next_or_raised hstatus
    · rw [transact_step_of_next ht]
      exact stepKeepsTheInvariant s t hs ht
    · rw [transact_step_of_raised hc]
      exact State.enterFatal_inv hs c

theorem transact_tick_inv {s : State} (hs : s.Inv) : (transact .tick s).1.Inv := by
  cases hstatus : s.status with
  | fatal c => rwa [transact_tick_of_fatal hstatus]
  | running =>
    rw [transact_tick_of_running hstatus]
    exact State.tick_inv hs

/-- Settles O58: a step as O57 and a reset as O56 have it; a fatal step, tick, setKey and reads touch none of the four
parts, and decay only lowers. -/
theorem everyTransactionKeepsTheInvariant : Obligations.EveryTransactionKeepsTheInvariant := by
  intro e s hs
  cases e with
  | reset image => exact State.resetWith_inv s.params s.draws image
  | step => exact transact_step_inv hs
  | tick => exact transact_tick_inv hs
  | decay => exact State.decay_inv hs
  | setKey k b => exact State.setKey_inv hs k b
  | read q => exact hs

/-- Settles O59: by induction on the schedule, from a reset on. -/
theorem reachableStatesMeetTheInvariant : Obligations.ReachableStatesMeetTheInvariant := by
  intro s h
  induction h with
  | reset p draws image => exact State.resetWith_inv p draws image
  | event e _ ih => exact everyTransactionKeepsTheInvariant e _ ih

end Sys2Proof.Machine
end

section
/-! The highlight counters and the sound timer are outputs only (spec/10_state.md R22, R29): wiping them before an
instruction makes no difference to the rest after it. -/
namespace Sys2Proof.Machine

open Spec

/-! ### The operations that are not one record update -/

theorem withoutOutputs_skip (s : State) (c : Bool) :
    withoutOutputs (s.skip c) = withoutOutputs ((withoutOutputs s).skip c) := by
  cases c <;> rfl

theorem withoutOutputs_storeRegs (s : State) (regs : List Reg) :
    withoutOutputs (s.storeRegs regs) = withoutOutputs ((withoutOutputs s).storeRegs regs) := by
  induction regs generalizing s with
  | nil => rfl
  | cons k ks ih => exact (ih _).trans (ih ((withoutOutputs s).writeByte _ _)).symm

theorem withoutOutputs_loadRegs (s : State) (regs : List Reg) :
    withoutOutputs (s.loadRegs regs) = withoutOutputs ((withoutOutputs s).loadRegs regs) := by
  induction regs generalizing s with
  | nil => rfl
  | cons k ks ih => exact (ih _).trans (ih ((withoutOutputs s).setV _ _)).symm

/-! ### Instructions and steps -/

/-- The outputs wiped before an instruction or only after it: the outcome, seen without them, is the same. -/
theorem exec_withoutOutputs (i : Instr) (s : State) :
    seenThrough withoutOutputs (exec i s) = seenThrough withoutOutputs (exec i (withoutOutputs s)) := by
  cases i with
  | ret =>
    obtain hempty | ⟨k, hk⟩ := s.sp_empty_or_slot
    · rw [exec_ret_underflow hempty, exec_ret_underflow (s := withoutOutputs s) hempty]; rfl
    · rw [exec_ret hk, exec_ret (s := withoutOutputs s) hk]; rfl
  | call nnn =>
    obtain hfull | ⟨k, hk⟩ := s.sp_full_or_slot
    · rw [exec_call_overflow hfull, exec_call_overflow (s := withoutOutputs s) hfull]; rfl
    · rw [exec_call hk, exec_call (s := withoutOutputs s) hk]; rfl
  | skp x =>
    obtain hbig | ⟨k, hk⟩ := s.key_range_or_key x
    · rw [exec_skp_range hbig, exec_skp_range (s := withoutOutputs s) hbig]; rfl
    · rw [exec_skp hk, exec_skp (s := withoutOutputs s) hk]
      exact congrArg Host.Outcome.next (withoutOutputs_skip s _)
  | sknp x =>
    obtain hbig | ⟨k, hk⟩ := s.key_range_or_key x
    · rw [exec_sknp_range hbig, exec_sknp_range (s := withoutOutputs s) hbig]; rfl
    · rw [exec_sknp hk, exec_sknp (s := withoutOutputs s) hk]
      exact congrArg Host.Outcome.next (withoutOutputs_skip s _)
  | seImm x nn | sneImm x nn | seReg x y n | sneReg x y n =>
    exact congrArg Host.Outcome.next (withoutOutputs_skip s _)
  | ldVxK x =>
    cases hkey : leastKeyDown s.key with
    | none => rw [exec_ldVxK_none hkey, exec_ldVxK_none (s := withoutOutputs s) hkey]; rfl
    | some k => rw [exec_ldVxK hkey, exec_ldVxK (s := withoutOutputs s) hkey]; rfl
  | ldMemRegs x =>
    exact congrArg (fun t => Host.Outcome.next t.advance) (withoutOutputs_storeRegs s (regsUpTo x))
  | ldRegsMem x =>
    exact congrArg (fun t => Host.Outcome.next t.advance) (withoutOutputs_loadRegs s (regsUpTo x))
  | _ => rfl

/-- The step fetches, decodes and looks at the status without the outputs. -/
theorem step_withoutOutputs (s : State) :
    seenThrough withoutOutputs (step s) = seenThrough withoutOutputs (step (withoutOutputs s)) := by
  cases hs : s.status with
  | fatal c => rw [step_of_fatal hs, step_of_fatal (s := withoutOutputs s) hs]
  | running =>
    cases hd : s.decoded with
    | inst i =>
      rw [step_of_decoded_inst hs hd, step_of_decoded_inst (s := withoutOutputs s) hs hd]
      exact exec_withoutOutputs i s
    | invalid why =>
      rw [step_of_decoded_invalid hs hd, step_of_decoded_invalid (s := withoutOutputs s) hs hd]; rfl

/-- Settles O53: both states step as the one state without the outputs does. -/
theorem outputsNeverInfluenceAStep : Obligations.OutputsNeverInfluenceAStep := by
  intro s t hst
  rw [step_withoutOutputs s, hst, ← step_withoutOutputs t]

end Sys2Proof.Machine
end

section
/-! What decay, setKey and reset leave (spec/10_state.md R32, R34, R36, spec/70_reset_and_hazards.md R139-R141). -/
namespace Sys2Proof.Machine

open Spec

/-- With the highlight counters put back, a decay has changed nothing. -/
theorem State.decay_frame (s : State) : { s.decay with hlr := s.hlr, hls := s.hls } = s := by
  cases s
  rfl

/-- With the latch put back, a setKey has changed nothing. -/
theorem State.setKey_frame (s : State) (k : Fin 16) (b : Bool) : { s.setKey k b with key := s.key } = s := rfl

/-- Settles O37: each of the two writes its own vectors, in every status. -/
theorem decayAndSetKeyDoTheirPart : Obligations.DecayAndSetKeyDoTheirPart := by
  intro s k b
  refine ⟨fun i => ⟨decayed_getElem s.hlr i, decayed_getElem s.hls i⟩, s.decay_frame, fun j => ?_, s.setKey_frame k b⟩
  exact (getElem_set_fin s.key k j b).trans (by simp only [@eq_comm _ k j])

/-- Settles O54: a reset writes every component but the counter of draws and the parameters. -/
theorem resetLeavesTheResetValues : Obligations.ResetLeavesTheResetValues := by
  intro s image
  have zero {α : Type} (a : α) (j : Fin 16) : (Vector.replicate 16 a)[j] = a := Vector.getElem_replicate j.isLt
  exact ⟨rfl, rfl, zero 0, rfl, rfl, zero 0, rfl, rfl, Framebuffer.getPixel_cleared, zero false,
    fun i => ⟨zero 0 i, zero 0 i⟩, rfl, rfl⟩

/-! ### The image in memory -/

/-- All a write of consecutive bytes that ends within memory does. -/
theorem Memory.read_writeBytes {bs : List Byte} {b : Nat} (hb : b + bs.length ≤ 4096) {a : Nat} (ha : a < 4096)
    (m : Memory) : Memory.read (Memory.writeBytes m b bs) a =
      if b ≤ a ∧ a < b + bs.length then bs.getD (a - b) 0 else Memory.read m a := by
  induction bs generalizing m b with
  | nil => simp [Memory.writeBytes]
  | cons c cs ih =>
    rw [List.length_cons] at hb ⊢
    rw [Memory.writeBytes, ih (by omega), Memory.read_write, Nat.mod_eq_of_lt ha,
      Nat.mod_eq_of_lt (show b < 4096 by omega)]
    obtain hlt | rfl | hgt := lt_trichotomy a b
    · rw [if_neg (by omega), if_neg (by omega), if_neg (by omega)]
    · rw [if_neg (by omega), if_pos rfl, if_pos (by omega), Nat.sub_self, List.getD_cons_zero]
    · have hnext : a - b = (a - (b + 1)) + 1 := by omega
      have hin : (b ≤ a ∧ a < b + (cs.length + 1)) ↔ (b + 1 ≤ a ∧ a < b + 1 + cs.length) := by omega
      rw [if_neg hgt.ne, hnext, List.getD_cons_succ]
      simp only [hin]

/-- What a blank memory reads as: the font and zeros (R140). -/
theorem Memory.read_blank {a : Nat} (ha : a < 4096) : Memory.read [] a = if a < 80 then Config.font a else 0 := by
  rw [Memory.read_nil, Nat.mod_eq_of_lt ha]
  rfl

/-- An accepted image is read from 0x200 on, and behind it the zeros that were there (R141). -/
theorem read_resetMemory_accepted {image : List Byte} (hlen : image.length ≤ 3584) {a : Nat} (ha : a < 4096) :
    Memory.read (resetMemory (some image)) a =
      if a < 0x200 then (if a < 80 then Config.font a else 0) else image.getD (a - 0x200) 0 := by
  rw [resetMemory, if_pos hlen, Memory.read_writeBytes (by simp only [imageBase_eq]; omega) ha, Memory.read_blank ha]
  simp only [imageBase_eq]
  by_cases hbelow : a < 0x200
  · rw [if_neg (by omega), if_pos hbelow]
  · by_cases hin : a < 0x200 + image.length
    · rw [if_pos ⟨by omega, hin⟩, if_neg hbelow]
    · rw [if_neg (by omega), if_neg (by omega), if_neg hbelow, List.getD_eq_default _ _ (by omega)]

theorem resetMemory_rejected {image : List Byte} (hlen : image.length > 3584) : resetMemory (some image) = [] := by
  rw [resetMemory, if_neg (not_le.mpr hlen)]

theorem loadResult_accepted {image : List Byte} (hpos : 1 ≤ image.length) (hlen : image.length ≤ 3584) :
    loadResult (some image) = .loaded image.length := by
  rw [loadResult, if_neg (by omega), if_pos hlen]

theorem loadResult_rejected {image : List Byte} (hlen : image.length > 3584) :
    loadResult (some image) = .rejected image.length := by
  rw [loadResult, if_neg (by omega), if_neg (not_le.mpr hlen)]

/-- Settles O55: the length of the image decides; where it is not copied, memory is blank. -/
theorem resetLoadsAnAcceptedImageOnly : Obligations.ResetLoadsAnAcceptedImageOnly := by
  intro s image a ha blank after
  have hresult : after.2 = .load (loadResult (some image)) := rfl
  have hread : after.1.readByte a = Memory.read (resetMemory (some image)) a := rfl
  refine ⟨fun hpos hlen => ?accepted, fun hzero => ?empty, fun hlen => ?rejected, rfl, Memory.read_blank ha⟩
  case accepted =>
    rw [hresult, hread, loadResult_accepted hpos hlen]
    exact ⟨rfl, read_resetMemory_accepted hlen ha⟩
  case empty =>
    obtain rfl : image = [] := List.eq_nil_of_length_eq_zero hzero
    exact ⟨rfl, Memory.read_blank ha⟩
  case rejected =>
    rw [hresult, hread, loadResult_rejected hlen, resetMemory_rejected hlen]
    exact ⟨rfl, Memory.read_blank ha⟩

end Sys2Proof.Machine
end
